-- ==== Sys2Proof/Word.lean ====
section
/-! DEFINITION. Word types of the engine: what the manual treats as bits. -/

namespace Sys2Proof

/-- A 32-bit unsigned word; `+` wraps modulo 2^32 (00_scope R7, R8; 40_primitives R69). -/
abbrev Word := BitVec 32

/-- A byte, bits 7..0 (00_scope R7). -/
abbrev Byte := BitVec 8

/-- A 64-byte block, and equally the 64 bytes of the Block Buffer or of a payload, in stream order
(00_scope R5, R12; 30_encoding R56). -/
abbrev Block := Vector Byte 64

/-- The HashState `H[0..7]` (10_state R16). -/
abbrev HashState := Vector Word 8

/-- The Schedule `W[0..63]` (10_state R20). -/
abbrev Schedule := Vector Word 64

end Sys2Proof
end

