-- ==== Sys2Proof/Syntax.lean ====
section
/-! DEFINITION. The six commands of the engine (spec/opcode_table.json; 30_encoding R57). -/

namespace Sys2Proof

/-- One constructor for each row of the opcode map (30_encoding R57). -/
inductive Instr where
  /-- INIT: start a fresh session (44_streaming R107). -/
  | init
  /-- DATA `n`: absorb the bytes `PAYLOAD[0..n)`, where `n` is the 7-bit field LEN
  (44_streaming R108; 30_encoding R55, R56). -/
  | data (n : BitVec 7) (payload : Block)
  /-- END: end of input, finalize (44_streaming R111). -/
  | endCmd
  /-- FAIL: the source reported a read error (44_streaming R112). -/
  | fail
  /-- RDDIG `i`: read digest word `i`, the 3-bit field IDX (44_streaming R113; 30_encoding R55). -/
  | rddig (i : BitVec 3)
  /-- RDSTAT: read the STATUS word (44_streaming R114). -/
  | rdstat
deriving DecidableEq, Repr

end Sys2Proof
end

