-- ==== Sys2Proof/WellFormed.lean ====
section
/-! DEFINITION. Which command terms some legal command word stands for (30_encoding R58). -/

namespace Sys2Proof

/-- `1 ≤ LEN ≤ 64`: the count of a DATA command (30_encoding R58: an empty read is END, and a read
is "up to 64 bytes"). -/
def lenInRange (n : BitVec 7) : Bool := 1 ≤ n.toNat && n.toNat ≤ 64

/-- A command is well formed when its fields are ones that `Legal` admits (30_encoding R58). Every
IDX of RDDIG, 0 to 7, is legal. -/
def Instr.wellFormed : Instr → Bool
  | .init => true
  | .data n _ => lenInRange n
  | .endCmd => true
  | .fail => true
  | .rddig _ => true
  | .rdstat => true

end Sys2Proof
end

