-- ==== Sys2Proof/Decode.lean ====
section
/-! DEFINITION. The decoder, total on every command word and payload, and the encoder
(30_encoding R53 to R60). -/

namespace Sys2Proof

/-! ### The fields of CMD (30_encoding R54) -/

/-- `OP`, bits [3:0]. -/
def opField (w : BitVec 32) : BitVec 4 := w.extractLsb' 0 4

/-- `RSV0`, bits [7:4]. -/
def rsv0Field (w : BitVec 32) : BitVec 4 := w.extractLsb' 4 4

/-- `LEN`, bits [14:8], unsigned (30_encoding R55). -/
def lenField (w : BitVec 32) : BitVec 7 := w.extractLsb' 8 7

/-- `RSV1`, bit 15. -/
def rsv1Field (w : BitVec 32) : BitVec 1 := w.extractLsb' 15 1

/-- `IDX`, bits [18:16], unsigned (30_encoding R55). -/
def idxField (w : BitVec 32) : BitVec 3 := w.extractLsb' 16 3

/-- `RSV2`, bits [31:19]. -/
def rsv2Field (w : BitVec 32) : BitVec 13 := w.extractLsb' 19 13

/-- `Legal(CMD)`, as 30_encoding R58 writes it. The decoder below does not use it: it follows the
match and mask table of R59, and that the two agree is a statement about the decoder. -/
def legal (w : BitVec 32) : Bool :=
  (rsv0Field w == 0 && rsv1Field w == 0 && rsv2Field w == 0)
    && (1 ≤ (opField w).toNat && (opField w).toNat ≤ 6)
    && (if opField w == 2 then lenInRange (lenField w) else lenField w == 0)
    && (if opField w == 5 then true else idxField w == 0)

/-! ### The payload lanes (30_encoding R56; 20_memory R38) -/

/-- `PAYLOAD[j]` is `cmd_payload[511-8j : 504-8j]`: the first stream byte is the most significant. -/
def payloadOfBus (bus : BitVec 512) : Block :=
  Vector.ofFn fun j => bus.extractLsb' (504 - 8 * j.val) 8

/-- The bus that carries a payload: each byte in turn pushes the earlier ones up by 8 bits. -/
def busOfPayload (p : Block) : BitVec 512 :=
  p.toList.foldl (fun acc b => (acc <<< 8) ||| b.setWidth 512) 0

/-! ### Decoding -/

/-- Why a command word is not a command (30_encoding R60). The engine's answer is ILLEGAL for each. -/
inductive IllegalReason where
  /-- OP is 0x0 or 0x7 to 0xF. -/
  | reservedOpcode
  /-- A bit of RSV0, RSV1 or RSV2 is 1. -/
  | reservedBits
  /-- DATA with LEN = 0 or LEN > 64. -/
  | lenOutOfRange
  /-- A nonzero LEN outside DATA. -/
  | lenOutsideData
  /-- A nonzero IDX outside RDDIG. -/
  | idxOutsideRddig
deriving DecidableEq, Repr

/-- What the decoder answers: a command, or a rejection by name. -/
inductive Decoded where
  | instr (i : Instr)
  | illegal (why : IllegalReason)
deriving DecidableEq, Repr

/-- One row of the decoder table: a word selects it when `CMD ∧ mask = value` and the row's field
condition on LEN holds (30_encoding R59). -/
structure DecodeRow where
  value : BitVec 32
  mask : BitVec 32
  lenCondition : BitVec 7 → Bool
  build : BitVec 7 → BitVec 3 → Block → Instr

/-- The decoder table of 30_encoding R59, row by row. -/
def decodeRows : List DecodeRow :=
  [ ⟨0x00000001, 0xFFFFFFFF, fun _ => true, fun _ _ _ => .init⟩,
    ⟨0x00000002, 0xFFFF80FF, lenInRange, fun n _ p => .data n p⟩,
    ⟨0x00000003, 0xFFFFFFFF, fun _ => true, fun _ _ _ => .endCmd⟩,
    ⟨0x00000004, 0xFFFFFFFF, fun _ => true, fun _ _ _ => .fail⟩,
    ⟨0x00000005, 0xFFF8FFFF, fun _ => true, fun _ i _ => .rddig i⟩,
    ⟨0x00000006, 0xFFFFFFFF, fun _ => true, fun _ _ _ => .rdstat⟩ ]

/-- A word selects a row (30_encoding R59). -/
def DecodeRow.selects (r : DecodeRow) (w : BitVec 32) : Bool :=
  (w &&& r.mask) == r.value && r.lenCondition (lenField w)

/-- Names what is wrong with a word that selects no row (30_encoding R60). Where several things are
wrong, the first in this order is named (notes/assumptions/15.md); the engine's answer does not
depend on it. -/
def illegalReason (w : BitVec 32) : IllegalReason :=
  if !(1 ≤ (opField w).toNat && (opField w).toNat ≤ 6) then .reservedOpcode
  else if !(rsv0Field w == 0 && rsv1Field w == 0 && rsv2Field w == 0) then .reservedBits
  else if opField w == 2 && !lenInRange (lenField w) then .lenOutOfRange
  else if !(opField w == 2) && !(lenField w == 0) then .lenOutsideData
  else .idxOutsideRddig

/-- The decoder: total on every command word and payload (30_encoding R53, R59). -/
def decode (w : BitVec 32) (bus : BitVec 512) : Decoded :=
  match decodeRows.find? (fun r => r.selects w) with
  | some r => .instr (r.build (lenField w) (idxField w) (payloadOfBus bus))
  | none => .illegal (illegalReason w)

/-! ### Encoding -/

/-- The command word of a command (30_encoding R57, R65). -/
def encodeWord : Instr → BitVec 32
  | .init => 0x00000001
  | .data n _ => 0x00000002 ||| (n.setWidth 32 <<< 8)
  | .endCmd => 0x00000003
  | .fail => 0x00000004
  | .rddig i => 0x00000005 ||| (i.setWidth 32 <<< 16)
  | .rdstat => 0x00000006

/-- The payload bus of a command. Only DATA has a payload (30_encoding R53); the others ignore it
(R56) and are given zeros. -/
def encodeBus : Instr → BitVec 512
  | .init => 0
  | .data _ p => busOfPayload p
  | .endCmd => 0
  | .fail => 0
  | .rddig _ => 0
  | .rdstat => 0

/-! ### The opcode table's numbering -/

/-- CMD is bits 31..0 of a table word; the bits above the row's width are 0. -/
def tableCmd (nbits w : Nat) : BitVec 32 := BitVec.ofNat 32 (w % 2 ^ nbits)

/-- The payload follows CMD: bits 543..32 of a table word, taken as the 512-bit bus. DESIGN CHOICE
(notes/assumptions/14.md): the table gives the payload no bits. Safe: it names words of a table, not
a behaviour. -/
def tableBus (nbits w : Nat) : BitVec 512 := BitVec.ofNat 512 ((w % 2 ^ nbits) >>> 32)

/-- What the decoder reads from an instruction whose bits are `w`, numbered as
spec/opcode_table.json numbers them; the bits above `nbits` are 0. -/
def decodeTableWord (nbits w : Nat) : Option Instr :=
  match decode (tableCmd nbits w) (tableBus nbits w) with
  | .instr i => some i
  | .illegal _ => none

end Sys2Proof
end

