-- ==== Sys2Proof/Machine/Operands.lean ====
section
/-! DEFINITION. Operand assembly (30_encoding R55, R56). The only operands are LEN with the payload
(DATA) and IDX (RDDIG). -/

namespace Sys2Proof.Machine

/-- The stream bytes of DATA `n`: `PAYLOAD[0..n)`, earliest first. The bytes `PAYLOAD[n..64)` are
ignored (30_encoding R56). -/
def dataBytes (n : BitVec 7) (payload : Block) : List Byte := payload.toList.take n.toNat

/-- `H[IDX]` (30_encoding R55: `IDX = i` selects `H[i]`). -/
def digestWord (h : HashState) (i : BitVec 3) : Word := h[i.toNat]'(by have := i.isLt; omega)

end Sys2Proof.Machine
end

