-- ==== Sys2Proof/Config.lean ====
section
/-! DEFINITION. What the spec leaves open: the free values and the open parameters of the engine.
None of them has a body, so nothing in Lean can tell what it is. -/

namespace Sys2Proof

/-! ### Free values for elements the spec calls unspecified

Each is applied to the number of the engine (`State.engine`) and the number of its draw
(`State.freeCtr`), so two draws of one engine, and the draws of two engines, have nothing to do with
each other (10_state R26, R28, R30; 20_memory R47; 44_streaming R111, R112; 93_implementation_defined
U1, U3, U5, U17; notes/assumptions/3.md, 4.md, 5.md, 12.md). -/

/-- `H[i]` where it is unspecified. -/
opaque Config.freeHash (engine draw i : Nat) : Word

/-- `BITLEN` where it is unspecified. -/
opaque Config.freeBitlen (engine draw : Nat) : BitVec 64

/-- `BUF[j]` where it is unspecified. -/
opaque Config.freeBuf (engine draw j : Nat) : Byte

/-- `FILL` where it is unspecified. -/
opaque Config.freeFill (engine draw : Nat) : BitVec 7

/-- `W[i]` where it is unspecified. -/
opaque Config.freeSchedule (engine draw i : Nat) : Word

/-- The working variables `a` to `h` (0 to 7) where they are unspecified. -/
opaque Config.freeWork (engine draw i : Nat) : Word

/-- `T1` where it is unspecified. -/
opaque Config.freeT1 (engine draw : Nat) : Word

/-- `T2` where it is unspecified. -/
opaque Config.freeT2 (engine draw : Nat) : Word

/-- `RDATA` after a reset during a run: "no response pending" (10_state R28) gives no value. -/
opaque Config.freeRdata (engine draw : Nat) : Word

/-- The two low bits of `RCODE` after a reset during a run, likewise. -/
opaque Config.freeRcode (engine draw : Nat) : BitVec 2

/-! ### Open parameters (00_scope R6) -/

/-- `N_INSTANCES` less one. -/
opaque Config.moreInstances : Nat

/-- `N_INSTANCES`, at least 1 (20_memory R47; 60_exceptions R142; 92_eei_decisions D21;
notes/assumptions/12.md). -/
def Config.nInstances : Nat := Config.moreInstances + 1

/-! `LATENCY` (70_reset_and_hazards R153) has no place in a model without time
(notes/assumptions/9.md), and `BITLEN_OVERFLOW` (44_streaming R110) must not be given a value: the
refusal `lengthOverflow` stands where it would be used (notes/assumptions/7.md). -/

end Sys2Proof
end

