-- ==== Sys2Proof/Machine/Constants.lean ====
section
/-! DEFINITION. The constant tables H(0) and K (40_primitives R80, R81). They are fixed values that
no command writes, so they are definitions and not state (10_state R14). The spec supplies their
values from general knowledge (notes/assumptions/13.md). -/

namespace Sys2Proof.Machine

/-- `H0[0..7]`, the initial hash value (40_primitives R80). -/
def H0 : HashState :=
  ⟨#[ 0x6a09e667, 0xbb67ae85, 0x3c6ef372, 0xa54ff53a,
      0x510e527f, 0x9b05688c, 0x1f83d9ab, 0x5be0cd19 ], rfl⟩

/-- The table of round constants as 40_primitives R81 prints it, line by line: line `r` holds `K[r]`,
`K[16 + r]`, `K[32 + r]` and `K[48 + r]`. -/
def kTable : List (Word × Word × Word × Word) :=
  [ (0x428a2f98, 0xe49b69c1, 0x27b70a85, 0x19a4c116),
    (0x71374491, 0xefbe4786, 0x2e1b2138, 0x1e376c08),
    (0xb5c0fbcf, 0x0fc19dc6, 0x4d2c6dfc, 0x2748774c),
    (0xe9b5dba5, 0x240ca1cc, 0x53380d13, 0x34b0bcb5),
    (0x3956c25b, 0x2de92c6f, 0x650a7354, 0x391c0cb3),
    (0x59f111f1, 0x4a7484aa, 0x766a0abb, 0x4ed8aa4a),
    (0x923f82a4, 0x5cb0a9dc, 0x81c2c92e, 0x5b9cca4f),
    (0xab1c5ed5, 0x76f988da, 0x92722c85, 0x682e6ff3),
    (0xd807aa98, 0x983e5152, 0xa2bfe8a1, 0x748f82ee),
    (0x12835b01, 0xa831c66d, 0xa81a664b, 0x78a5636f),
    (0x243185be, 0xb00327c8, 0xc24b8b70, 0x84c87814),
    (0x550c7dc3, 0xbf597fc7, 0xc76c51a3, 0x8cc70208),
    (0x72be5d74, 0xc6e00bf3, 0xd192e819, 0x90befffa),
    (0x80deb1fe, 0xd5a79147, 0xd6990624, 0xa4506ceb),
    (0x9bdc06a7, 0x06ca6351, 0xf40e3585, 0xbef9a3f7),
    (0xc19bf174, 0x14292967, 0x106aa070, 0xc67178f2) ]

/-- `K[0..63]`, the round constants; round `t` uses `K[t]` (40_primitives R81). The table's four
columns, one below the other. -/
def K : Vector Word 64 :=
  ⟨(kTable.map (·.1) ++ kTable.map (·.2.1) ++ kTable.map (·.2.2.1) ++ kTable.map (·.2.2.2)).toArray, rfl⟩

/-- The first 64 primes, from which both tables can be recomputed (40_primitives R82). -/
def firstPrimes : List Nat :=
  [2, 3, 5, 7, 11, 13, 17, 19, 23, 29, 31, 37, 41, 43, 47, 53, 59, 61, 67, 71, 73, 79, 83, 89, 97, 101,
    103, 107, 109, 113, 127, 131] ++
  [137, 139, 149, 151, 157, 163, 167, 173, 179, 181, 191, 193, 197, 199, 211, 223, 227, 229, 233, 239,
    241, 251, 257, 263, 269, 271, 277, 281, 283, 293, 307, 311]

end Sys2Proof.Machine
end

