-- ==== Sys2Proof/Machine/Primitives.lean ====
section
/-! DEFINITION. Bit and word primitives and the mixing functions (40_primitives R67 to R79). They are
total, write no state and raise nothing. -/

namespace Sys2Proof.Machine

/-- Circular right rotation by `n mod 32` bits (40_primitives R67). -/
def rotr (x : Word) (n : Nat) : Word := x.rotateRight n

/-- Logical shift right. The source's domain is `n < 32`, so `n` has no other values
(40_primitives R68; 93_implementation_defined U7). -/
def shr (x : Word) (n : Fin 32) : Word := x >>> n.val

/-- Addition modulo 2^32, no carry kept (40_primitives R69). -/
def add32 (x y : Word) : Word := x + y

/-- Four bytes, most significant first, as one word (40_primitives R71). -/
def packBE32 (b0 b1 b2 b3 : Byte) : Word := b0 ++ b1 ++ b2 ++ b3

/-- The four bytes of a word, most significant first (40_primitives R72). -/
def unpackBE32 (x : Word) : List Byte :=
  [x.extractLsb' 24 8, x.extractLsb' 16 8, x.extractLsb' 8 8, x.extractLsb' 0 8]

/-- The eight bytes of a 64-bit value, most significant first (40_primitives R73). -/
def packBE64 (v : BitVec 64) : List Byte :=
  [v.extractLsb' 56 8, v.extractLsb' 48 8, v.extractLsb' 40 8, v.extractLsb' 32 8,
   v.extractLsb' 24 8, v.extractLsb' 16 8, v.extractLsb' 8 8, v.extractLsb' 0 8]

/-- σ0 (40_primitives R74). -/
def smallSigma0 (x : Word) : Word := rotr x 7 ^^^ rotr x 18 ^^^ shr x 3

/-- σ1 (40_primitives R75). -/
def smallSigma1 (x : Word) : Word := rotr x 17 ^^^ rotr x 19 ^^^ shr x 10

/-- Σ0 (40_primitives R76). -/
def bigSigma0 (a : Word) : Word := rotr a 2 ^^^ rotr a 13 ^^^ rotr a 22

/-- Σ1 (40_primitives R77). -/
def bigSigma1 (e : Word) : Word := rotr e 6 ^^^ rotr e 11 ^^^ rotr e 25

/-- Choose (40_primitives R78). -/
def ch (e f g : Word) : Word := (e &&& f) ^^^ (~~~e &&& g)

/-- Majority (40_primitives R79). -/
def maj (a b c : Word) : Word := (a &&& b) ^^^ (a &&& c) ^^^ (b &&& c)

/-- The 32 digest bytes of a HashState: each word big-endian, in order (20_memory R37). -/
def digestBytes (h : HashState) : List Byte := h.toList.flatMap unpackBE32

end Sys2Proof.Machine
end

