-- ==== Sys2Proof/Machine/Schedule.lean ====
section
/-! DEFINITION. The message schedule expander (41_schedule R83 to R87): a pure function of one block.
An internal operation, reached by no command of its own (30_encoding R61). -/

namespace Sys2Proof.Machine

/-- `W[0..15]`: the sixteen big-endian words of the block, in order (41_schedule R84; 20_memory R35).
The other words are 0 until they are derived. -/
def copiedWords (blk : Block) : Schedule :=
  Vector.ofFn fun i : Fin 64 =>
    if h : i.val < 16 then
      packBE32 blk[4 * i.val] blk[4 * i.val + 1] blk[4 * i.val + 2] blk[4 * i.val + 3]
    else 0

/-- Writes `W[i]` from earlier words, for `16 ≤ i ≤ 63` (41_schedule R85). -/
def deriveWord (w : Schedule) (i : Nat) : Schedule :=
  if h : 16 ≤ i ∧ i < 64 then
    w.set i (add32 (add32 (add32 w[i - 16] (smallSigma0 w[i - 15])) w[i - 7]) (smallSigma1 w[i - 2]))
  else w

/-- `Schedule(blk)`: the copied words, then the derived words for `i` in 16..63 in increasing order
(41_schedule R83 to R85). All 64 words are kept (R87 lets a model do so).
Irreducible, so that no unification unfolds the expansion; `unfold` and `decide +kernel` still do. -/
@[irreducible] def schedule (blk : Block) : Schedule := (List.range' 16 48).foldl deriveWord (copiedWords blk)

end Sys2Proof.Machine
end

