-- ==== Sys2Proof/Machine/State.lean ====
section
/-! DEFINITION. The state of one engine instance, as plain data, and the state after reset
(10_state R13, R25, R28; 30_encoding R52; 44_streaming R117). -/

namespace Sys2Proof.Machine

/-- `SESS`, the session state (10_state R15). -/
inductive Sess where
  /-- No session: after power-on reset, before the first INIT. -/
  | idle
  /-- A session is open and accepts input. -/
  | absorb
  /-- The session was finalized; the digest is readable. -/
  | done
  /-- The session was aborted by a source read error; no digest exists. -/
  | failed
deriving DecidableEq, Repr

/-- `RCODE`, the response code (30_encoding R63). The codes 4 to 15 are never returned, so the type
has the four values only (93_implementation_defined U12). -/
inductive RCode where
  /-- The command was performed. -/
  | ok
  /-- The command word is not legal; no state change. -/
  | illegal
  /-- Legal, but not allowed in the current `SESS`; no state change. -/
  | state
  /-- The session is aborted by a source read error. -/
  | ioerr
deriving DecidableEq, Repr

/-- The working variables `a, b, c, d, e, f, g, h` of the compression (10_state R21). -/
structure WorkVars where
  a : Word
  b : Word
  c : Word
  d : Word
  e : Word
  f : Word
  g : Word
  h : Word
deriving DecidableEq, Repr

/-- One sample of the signals the host drives (30_encoding R52). A signal the host holds for longer
stands in several samples. Where the spec gives a single event at a port, one sample is that event
(notes/assumptions/8.md). -/
structure PortInput where
  /-- `rst`, active high. -/
  rst : Bool
  /-- `cmd_valid`: the host offers a command. -/
  cmdValid : Bool
  /-- `cmd_word`, the register CMD (30_encoding R54). -/
  cmdWord : BitVec 32
  /-- `cmd_payload`, the register PAYLOAD (30_encoding R56). -/
  cmdPayload : BitVec 512
  /-- `rsp_ready`: the host takes the response. -/
  rspReady : Bool
deriving DecidableEq, Repr

/-- The state of one engine instance: one field for each row of 10_state R13, the ports of
30_encoding R52, the refusal mark, and the model's own two fields. -/
structure State where
  /-- `SESS` (10_state R15). -/
  sess : Sess
  /-- `H[0..7]`, the HashState (10_state R16). -/
  h : HashState
  /-- `BITLEN`, 64 bits (10_state R17). -/
  bitlen : BitVec 64
  /-- `BUF[0..63]`, the Block Buffer (10_state R18). -/
  buf : Block
  /-- `FILL`, 7 bits: the number of valid bytes in `BUF` (10_state R18, R19). -/
  fill : BitVec 7
  /-- `W[0..63]`, the Schedule, scratch (10_state R20). -/
  w : Schedule
  /-- `a` to `h`, scratch (10_state R21). -/
  wv : WorkVars
  /-- `T1`, scratch (10_state R21). -/
  t1 : Word
  /-- `T2`, scratch (10_state R21). -/
  t2 : Word
  /-- `RCODE`, the code of the last response (10_state R13; 30_encoding R63). -/
  rcode : RCode
  /-- `RDATA`, the data of the last response (10_state R13; 30_encoding R62). -/
  rdata : Word
  /-- `rsp_valid`: a response is offered and the host has not taken it (30_encoding R52;
  70_reset_and_hazards R149, R150). -/
  rspValid : Bool
  /-- What the host drives at the steps to come, oldest first (30_encoding R52). -/
  inputs : List PortInput
  /-- The sticky refusal mark, outside the hardware state (44_streaming R117). -/
  refused : Bool
  /-- The model's own: how many times free values have been drawn (notes/assumptions/3.md). -/
  freeCtr : Nat
  /-- The model's own: which engine of a system this is, so that the free values of two engines are
  unrelated. No command reads or writes it (notes/assumptions/12.md). -/
  engine : Nat
deriving DecidableEq, Repr

/-- Why a step stops with a fault. -/
inductive Fault where
  /-- DATA or END performed while `FILL` is 64 or more, where `BufWrite` (00_scope R10) and the
  finalizer (43_padding R95) have no meaning. Raised by `execData` and `execEndCmd`; no run from
  reset reaches it (10_state R19). Safe: the model stops (notes/assumptions/10.md). -/
  | fillOutOfRange
deriving DecidableEq, Repr

/-- Why a step, or a command, is given no meaning. -/
inductive Refusal where
  /-- An instruction without a meaning in `exec`. Safe: the model stops. -/
  | notModelled (mnemonic : String)
  /-- A DATA that would take `BITLEN` past 2^64 − 8 (44_streaming R110). Raised by `execData`; `step`
  turns it into the refusal mark (44_streaming R117). The refusal is safe: the model stops. What
  `step` does with it is unsafe for a claim that leaves out the premise `refused = false`
  (notes/assumptions/7.md). -/
  | lengthOverflow
deriving DecidableEq, Repr

/-- The machine right after power-on reset (10_state R28; 70_reset_and_hazards R145): `SESS` is IDLE
and no response is pending. The spec leaves every data element unspecified; the zeros are the
model's DESIGN CHOICE and unsafe (notes/assumptions/1.md, 2.md); the model's own two fields start at
0, a DESIGN CHOICE too (notes/assumptions/3.md, 12.md). The host has driven nothing yet (notes/assumptions/8.md). -/
def State.reset : State where
  sess := .idle
  h := Vector.replicate 8 0
  bitlen := 0
  buf := Vector.replicate 64 0
  fill := 0
  w := Vector.replicate 64 0
  wv := ⟨0, 0, 0, 0, 0, 0, 0, 0⟩
  t1 := 0
  t2 := 0
  rcode := .ok
  rdata := 0
  rspValid := false
  inputs := []
  refused := false
  freeCtr := 0
  engine := 0

end Sys2Proof.Machine
end

