-- ==== Sys2Proof/Machine/Compression.lean ====
section
/-! DEFINITION. The compression function (42_compression R88 to R94), as a pure function of the
HashState and one block. -/

namespace Sys2Proof.Machine

/-- What the 64 rounds work on: `a` to `h` and the temporaries `T1`, `T2` (10_state R21). -/
structure RoundRegs where
  vars : WorkVars
  t1 : Word
  t2 : Word
deriving DecidableEq, Repr

/-- Initialization of the working variables from `H` (42_compression R89). The temporaries hold
nothing yet; round 0 writes them before anything reads them. -/
def initialRegs (h : HashState) : RoundRegs :=
  ⟨⟨h[0], h[1], h[2], h[3], h[4], h[5], h[6], h[7]⟩, 0, 0⟩

/-- `Round(t)`: every right-hand side reads the values from before the round (42_compression R90;
90_conflicts C6 for the rotation). -/
def roundStep (w : Schedule) (r : RoundRegs) (t : Fin 64) : RoundRegs :=
  let v := r.vars
  let t1 := add32 (add32 (add32 (add32 v.h (bigSigma1 v.e)) (ch v.e v.f v.g)) K[t]) w[t]
  let t2 := add32 (bigSigma0 v.a) (maj v.a v.b v.c)
  ⟨⟨add32 t1 t2, v.a, v.b, v.c, add32 v.d t1, v.e, v.f, v.g⟩, t1, t2⟩

/-- The 64 rounds, in order `t = 0, 1, ..., 63`, none skipped or repeated (42_compression R91). -/
def rounds (w : Schedule) (r : RoundRegs) : RoundRegs := (List.finRange 64).foldl (roundStep w) r

/-- Fold-back: each working variable is added to the HashState word of its position
(42_compression R92). -/
def foldBack (h : HashState) (v : WorkVars) : HashState :=
  ⟨#[add32 h[0] v.a, add32 h[1] v.b, add32 h[2] v.c, add32 h[3] v.d,
     add32 h[4] v.e, add32 h[5] v.f, add32 h[6] v.g, add32 h[7] v.h], rfl⟩

/-- The registers after the 64 rounds of a compression of `blk` from `h` (42_compression R88).
Irreducible, so that no unification unfolds 64 rounds; `unfold` and `decide +kernel` still do. -/
@[irreducible] def compressRegs (h : HashState) (blk : Block) : RoundRegs := rounds (schedule blk) (initialRegs h)

/-- `Compress_H(H, blk)`: the value of `H` after one compression (42_compression R88, R94;
44_streaming R119). Irreducible for the same reason. -/
@[irreducible] def compressH (h : HashState) (blk : Block) : HashState := foldBack h (compressRegs h blk).vars

end Sys2Proof.Machine
end

