-- ==== Sys2Proof/Machine/Flags.lean ====
section
/-! DEFINITION. The engine has no flags (10_state R23). What stands in their place is computed here:
the codes of `SESS` and `RCODE` and the STATUS word (10_state R15; 30_encoding R63, R64). -/

namespace Sys2Proof.Machine

/-- The 2-bit code of `SESS` (10_state R15). -/
def Sess.code : Sess → BitVec 2
  | .idle => 0
  | .absorb => 1
  | .done => 2
  | .failed => 3

/-- The 4-bit code `rsp_code` (30_encoding R63). -/
def RCode.code : RCode → BitVec 4
  | .ok => 0
  | .illegal => 1
  | .state => 2
  | .ioerr => 3

/-- The response code of a 2-bit number: every number is one of the four codes. -/
def rcodeOfBits (b : BitVec 2) : RCode :=
  if b = 0 then .ok else if b = 1 then .illegal else if b = 2 then .state else .ioerr

/-- The STATUS word: `SESS` in bits [1:0] and, in ABSORB, `FILL` in bits [14:8]; the rest 0
(30_encoding R64; 44_streaming R114). -/
def statusWord (sess : Sess) (fill : BitVec 7) : Word :=
  sess.code.setWidth 32 ||| (if sess = .absorb then fill.setWidth 32 <<< 8 else 0)

end Sys2Proof.Machine
end

