-- ==== Sys2Proof/Machine/Padding.lean ====
section
/-! DEFINITION. The padding finalizer as one total function (43_padding R95 to R104). -/

namespace Sys2Proof.Machine

/-- `zeros(n)` (00_scope R9). -/
def zeros (n : Nat) : List Byte := List.replicate n 0

/-- Padding spans two blocks exactly when `L ≥ 56` (43_padding R96; 90_conflicts C2). -/
def twoBlocks (l : Nat) : Bool := 56 ≤ l

/-- The byte lists of the closing blocks for the trailing bytes `d` and the bit length `nbits`
(43_padding R97 to R100). -/
def padBytes (d : List Byte) (nbits : BitVec 64) : List (List Byte) :=
  if twoBlocks d.length then
    [d ++ [0x80] ++ zeros (63 - d.length), zeros 56 ++ packBE64 nbits]
  else
    [d ++ [0x80] ++ zeros (55 - d.length) ++ packBE64 nbits]

/-- A list of 64 bytes as a block. -/
def blockOfBytes (l : List Byte) : Block := Vector.ofFn fun j => l.getD j.val 0

/-- `Pad(D, Nbits)`: the one or two closing blocks, in order (43_padding R100). -/
def pad (d : List Byte) (nbits : BitVec 64) : List Block := (padBytes d nbits).map blockOfBytes

end Sys2Proof.Machine
end

