-- ==== Sys2Proof/Machine/Ops.lean ====
section
/-! DEFINITION. The operations that the meanings share: responding, the session table, the block
buffer, compressing, finalizing, and making elements unspecified. -/

namespace Sys2Proof.Machine

/-! ### Responses -/

/-- `respond(code, data)`: the response of a command (00_scope R10; 30_encoding R62). Nothing else
changes. -/
def State.respond (s : State) (code : RCode) (data : Word) : State :=
  { s with rcode := code, rdata := data }

/-- `Allowed(OP, SESS)`: the cells of the session table whose action is not "—"
(44_streaming R106). -/
def allowed : Instr → Sess → Bool
  | .init, _ => true
  | .data _ _, sess => sess == .absorb
  | .endCmd, sess => sess == .absorb
  | .fail, sess => sess == .absorb
  | .rddig _, sess => sess == .done
  | .rdstat, _ => true

/-- `Reject(SESS)` (44_streaming R106). -/
def reject : Sess → RCode
  | .failed => .ioerr
  | .idle => .state
  | .absorb => .state
  | .done => .state

/-- The engine's whole exception mechanism, in one place: a legal command that the session does not
allow is answered IOERR in FAILED and STATE otherwise, with no state change (44_streaming R105, R106;
60_exceptions R131, R135, R136). There is nothing to return from (60_exceptions R137). -/
def ifAllowed (i : Instr) (s : State) (perform : Host.Outcome State Fault Refusal) :
    Host.Outcome State Fault Refusal :=
  if allowed i s.sess then perform else .next (s.respond (reject s.sess) 0)

/-- The answer to a word that is not legal: ILLEGAL, with no state change (30_encoding R60). -/
def State.respondIllegal (s : State) : State := s.respond .illegal 0

/-! ### Compressing -/

/-- `Compress(blk)` on the state: `H`, and the scratch `W`, `a` to `h`, `T1`, `T2`
(42_compression R88). What it leaves in the scratch is the pseudocode's; the spec lets an
implementation keep less (41_schedule R87; notes/assumptions/6.md). -/
def State.compress (s : State) (blk : Block) : State :=
  { s with
    h := compressH s.h blk
    w := schedule blk
    wv := (compressRegs s.h blk).vars
    t1 := (compressRegs s.h blk).t1
    t2 := (compressRegs s.h blk).t2 }

/-! ### The block buffer and the length counter -/

/-- `BufWrite(FILL, x); FILL <- FILL + 1; BITLEN <- BITLEN + 8` (44_streaming R109;
40_primitives R70). `BufWrite` is used for `FILL ≤ 63` only (00_scope R10). -/
def State.pushByte (s : State) (x : Byte) : State :=
  { s with
    buf := s.buf.setIfInBounds s.fill.toNat x
    fill := s.fill + 1
    bitlen := s.bitlen + 8 }

/-- `FILL <- 0` after a completed block (44_streaming R109). -/
def State.emptyBuffer (s : State) : State := { s with fill := 0 }

/-- `AbsorbByte(x)`: a completed block is compressed at once (44_streaming R109;
90_conflicts C3). -/
def State.absorbByte (s : State) (x : Byte) : State :=
  if (s.pushByte x).fill = 64 then
    ((s.pushByte x).compress (s.pushByte x).buf).emptyBuffer
  else s.pushByte x

/-- The bytes of a DATA command, one after the other (44_streaming R108). -/
def State.absorbBytes (s : State) (xs : List Byte) : State := xs.foldl State.absorbByte s

/-- DATA `n` is admitted when `BITLEN + 8·n ≤ 2^64 − 8` (44_streaming R108, R110). -/
def lengthAdmitted (bitlen : BitVec 64) (n : BitVec 7) : Bool :=
  bitlen.toNat + 8 * n.toNat ≤ 2 ^ 64 - 8

/-- `FILL ≤ 63`, which holds between the commands of a session (10_state R19). -/
def fillInRange (fill : BitVec 7) : Bool := fill.toNat ≤ 63

/-! ### Opening and finalizing a session -/

/-- `H <- H0; BITLEN <- 0; FILL <- 0; SESS <- ABSORB`. `BUF`, `W` and the working variables are not
written (44_streaming R107). -/
def State.beginSession (s : State) : State :=
  { s with sess := .absorb, h := H0, bitlen := 0, fill := 0 }

/-- The trailing partial block `BUF[0..FILL)` (43_padding R95). -/
def State.pending (s : State) : List Byte := s.buf.toList.take s.fill.toNat

/-- `Finalize()`: each closing block, in order, is compressed (43_padding R100). -/
def State.finalize (s : State) : State := (pad s.pending s.bitlen).foldl State.compress s

/-- END leaves `BUF`, `FILL` and `BITLEN` open: the padding may be built in `BUF` or elsewhere
(43_padding R97; 93_implementation_defined U17), and the other two are unused from here on
(44_streaming R111; 93_implementation_defined U5). Free values of one draw of this engine
(notes/assumptions/5.md), keyed as in `State.discardData`. -/
def State.openAfterEnd (s : State) : State :=
  { s with
    bitlen := Config.freeBitlen s.engine s.freeCtr
    buf := Vector.ofFn fun j => Config.freeBuf s.engine s.freeCtr j.val
    fill := Config.freeFill s.engine s.freeCtr
    freeCtr := s.freeCtr + 1 }

/-- `SESS <- v`. -/
def State.setSess (s : State) (v : Sess) : State := { s with sess := v }

/-! ### Elements that become unspecified -/

/-- The working variables of one draw of one engine's free values. -/
def freeWorkVars (engine draw : Nat) : WorkVars :=
  let v := Config.freeWork engine draw
  ⟨v 0, v 1, v 2, v 3, v 4, v 5, v 6, v 7⟩

/-- `H, BITLEN, BUF, FILL, W, a..h, T1, T2 become unspecified` (44_streaming R112; 10_state R30):
each is a free value of one draw of this engine (notes/assumptions/3.md). DESIGN CHOICE: two states
with the same engine number and the same draw number get the same values; two engines of one system
have different numbers (notes/assumptions/12.md). -/
def State.discardData (s : State) : State :=
  { s with
    h := Vector.ofFn fun i => Config.freeHash s.engine s.freeCtr i.val
    bitlen := Config.freeBitlen s.engine s.freeCtr
    buf := Vector.ofFn fun j => Config.freeBuf s.engine s.freeCtr j.val
    fill := Config.freeFill s.engine s.freeCtr
    w := Vector.ofFn fun i => Config.freeSchedule s.engine s.freeCtr i.val
    wv := freeWorkVars s.engine s.freeCtr
    t1 := Config.freeT1 s.engine s.freeCtr
    t2 := Config.freeT2 s.engine s.freeCtr
    freeCtr := s.freeCtr + 1 }

/-- Power-on reset while the machine runs: IDLE, every data element unspecified, no response pending
and none given for a command that was cut (70_reset_and_hazards R145, R146; 10_state R28;
notes/assumptions/4.md). The refusal mark is outside the hardware state and stays (44_streaming
R117). -/
def State.powerOnReset (s : State) : State :=
  { s.discardData with
    sess := .idle
    rcode := rcodeOfBits (Config.freeRcode s.engine s.freeCtr)
    rdata := Config.freeRdata s.engine s.freeCtr
    rspValid := false }

/-! ### Ports and the refusal mark -/

/-- The host's samples that are still to come. -/
def State.setInputs (s : State) (rest : List PortInput) : State := { s with inputs := rest }

/-- `rsp_valid <- v` (30_encoding R52). -/
def State.setRspValid (s : State) (v : Bool) : State := { s with rspValid := v }

/-- `refuse(reason)`: sets the sticky mark and makes no other change (44_streaming R117). -/
def State.markRefused (s : State) : State := { s with refused := true }

end Sys2Proof.Machine
end

