-- ==== Sys2Proof/Machine/Data.lean ====
section
/-! DEFINITION. The meaning of DATA (44_streaming R108 to R110). -/

namespace Sys2Proof.Machine

/-- DATA `n` in ABSORB. The checks stand in the order of 60_exceptions R135: ILLEGAL for a count
outside 1..64 (30_encoding R58; the decoder never gives one, notes/assumptions/11.md), then the
session, then the length bound, which the model refuses (44_streaming R110). -/
def execData (n : BitVec 7) (payload : Block) (s : State) : Host.Outcome State Fault Refusal :=
  if lenInRange n then
    ifAllowed (.data n payload) s
      (if lengthAdmitted s.bitlen n then
        if fillInRange s.fill then .next ((s.absorbBytes (dataBytes n payload)).respond .ok 0)
        else .fault .fillOutOfRange
      else .refused .lengthOverflow)
  else .next s.respondIllegal

end Sys2Proof.Machine
end

