-- ==== Sys2Proof/Machine/Read.lean ====
section
/-! DEFINITION. The meanings of the reading commands RDDIG and RDSTAT (44_streaming R113, R114).
Neither changes anything but the response. -/

namespace Sys2Proof.Machine

/-- RDDIG `i` in DONE: the digest word `H[i]` (44_streaming R113). -/
def execRddig (i : BitVec 3) (s : State) : Host.Outcome State Fault Refusal :=
  ifAllowed (.rddig i) s (.next (s.respond .ok (digestWord s.h i)))

/-- RDSTAT, in every session state (44_streaming R114). -/
def execRdstat (s : State) : Host.Outcome State Fault Refusal :=
  ifAllowed .rdstat s (.next (s.respond .ok (statusWord s.sess s.fill)))

end Sys2Proof.Machine
end

