-- ==== Sys2Proof/Machine/Session.lean ====
section
/-! DEFINITION. The meanings of the commands that move the session: INIT, END and FAIL
(44_streaming R107, R111, R112). -/

namespace Sys2Proof.Machine

/-- INIT, in every session state (44_streaming R107). -/
def execInit (s : State) : Host.Outcome State Fault Refusal :=
  ifAllowed .init s (.next (s.beginSession.respond .ok 0))

/-- END in ABSORB: finalize, then DONE (44_streaming R111). The fault is raised only where
`0 ≤ L ≤ 63` of 43_padding R95 fails, which no run reaches (notes/assumptions/10.md). -/
def execEndCmd (s : State) : Host.Outcome State Fault Refusal :=
  ifAllowed .endCmd s
    (if fillInRange s.fill then .next ((s.finalize.openAfterEnd.setSess .done).respond .ok 0)
     else .fault .fillOutOfRange)

/-- FAIL in ABSORB: the abort is performed, and its own code is IOERR (44_streaming R112;
60_exceptions R135). -/
def execFail (s : State) : Host.Outcome State Fault Refusal :=
  ifAllowed .fail s (.next ((s.discardData.setSess .failed).respond .ioerr 0))

end Sys2Proof.Machine
end

