-- ==== Sys2Proof/Machine/Dispatch.lean ====
section
/-! DEFINITION. One arm for each command (44_streaming R105: perform OP). -/

namespace Sys2Proof.Machine

def exec (i : Instr) (s : State) : Host.Outcome State Fault Refusal :=
  match i with
  | .init => Sys2Proof.Machine.execInit s
  | .data n payload => Sys2Proof.Machine.execData n payload s
  | .endCmd => Sys2Proof.Machine.execEndCmd s
  | .fail => Sys2Proof.Machine.execFail s
  | .rddig idx => Sys2Proof.Machine.execRddig idx s
  | .rdstat => Sys2Proof.Machine.execRdstat s

end Sys2Proof.Machine
end

