-- ==== Sys2Proof/Machine/Port.lean ====
section
/-! DEFINITION. The two ports (30_encoding R52; 70_reset_and_hazards R145 to R152): which event the
next sample of the host's signals is, and what surrounds a command. -/

namespace Sys2Proof.Machine

/-- `cmd_ready`: no reset, and no response still to be taken (30_encoding R52;
70_reset_and_hazards R145, R149). -/
def cmdReady (p : PortInput) (s : State) : Bool := !p.rst && !s.rspValid

/-- What happens at one sample of the ports. -/
inductive PortEvent where
  /-- The host has driven nothing more: the engine waits (70_reset_and_hazards R152). -/
  | waiting
  /-- `rst = 1` (70_reset_and_hazards R145). -/
  | reset (rest : List PortInput)
  /-- A pending response is taken (30_encoding R52). -/
  | taken (rest : List PortInput)
  /-- No transfer: nothing is offered, or the pending response keeps the engine from accepting
  (70_reset_and_hazards R149, R150). -/
  | noTransfer (rest : List PortInput)
  /-- A command is accepted (30_encoding R52). -/
  | accepted (p : PortInput) (rest : List PortInput)
deriving DecidableEq, Repr

/-- Reads the next sample. Reset is stronger than everything else (70_reset_and_hazards R146;
60_exceptions R135); a pending response comes before a new command (70_reset_and_hazards R149). -/
def nextEvent (s : State) : PortEvent :=
  match s.inputs with
  | [] => .waiting
  | p :: rest =>
    if p.rst then .reset rest
    else if s.rspValid then if p.rspReady then .taken rest else .noTransfer rest
    else if p.cmdValid then .accepted p rest
    else .noTransfer rest

/-- `Step(s, CMD, PAYLOAD)` up to its response: an illegal word is answered ILLEGAL, a legal one is
executed (44_streaming R105). -/
def perform (word : BitVec 32) (payload : BitVec 512) (s : State) :
    Host.Outcome State Fault Refusal :=
  match decode word payload with
  | .instr i => exec i s
  | .illegal _ => .next s.respondIllegal

/-- The end of a transaction. The response is offered; a host with `rsp_ready = 1` takes it in the
same step, otherwise it stays pending (30_encoding R52; notes/assumptions/8.md). A refused command
sets the refusal mark on the state from before it, and makes no other change (44_streaming R117;
notes/assumptions/7.md). -/
def finishCommand (rspReady : Bool) (before : State) :
    Host.Outcome State Fault Refusal → Host.Outcome State Fault Refusal
  | .next t => .next (t.setRspValid (!rspReady))
  | .fault r => .fault r
  | .refused .lengthOverflow => .next before.markRefused
  | .refused r => .refused r

/-- What one sample of the ports does to the engine. -/
def portStep (s : State) : Host.Outcome State Fault Refusal :=
  match nextEvent s with
  | .waiting => .next s
  | .reset rest => .next (s.setInputs rest).powerOnReset
  | .taken rest => .next ((s.setInputs rest).setRspValid false)
  | .noTransfer rest => .next (s.setInputs rest)
  | .accepted p rest =>
    finishCommand p.rspReady (s.setInputs rest) (perform p.cmdWord p.cmdPayload (s.setInputs rest))

/-- The sample by which a host offers a command and takes its response at once. -/
def commandSample (word : BitVec 32) (payload : BitVec 512) : PortInput :=
  { rst := false, cmdValid := true, cmdWord := word, cmdPayload := payload, rspReady := true }

/-- The sample by which a host raises `rst` (70_reset_and_hazards R145). -/
def resetSample : PortInput :=
  { rst := true, cmdValid := false, cmdWord := 0, cmdPayload := 0, rspReady := false }

/-- The host offers one more command, before everything else it was going to do, with no response
pending. -/
def State.offer (s : State) (p : PortInput) : State :=
  { s with rspValid := false, inputs := p :: s.inputs }

end Sys2Proof.Machine
end

