-- ==== Sys2Proof/Machine/Step.lean ====
section
/-! DEFINITION. The step of the machine, and how one command is placed where the step takes its next
command. -/

namespace Sys2Proof.Machine

/-- One step: one sample of the ports. Where a command is accepted it is one whole command
(44_streaming R105; 10_state R22). -/
def step (s : State) : Host.Outcome State Fault Refusal := portStep s

/-- `s` with the command of table bits `w` on the command port, offered by a host that takes its
response, so that the very next step runs it. Commands come from outside the machine
(notes/assumptions/8.md). -/
def State.withFetchWord (s : State) (nbits w : Nat) : State :=
  s.offer (commandSample (tableCmd nbits w) (tableBus nbits w))

end Sys2Proof.Machine
end

