-- ==== Sys2Proof/Machine/HostProgram.lean ====
section
/-! DEFINITION. The host side of the protocol (30_encoding R66; 45_host_protocol R120 to R128): read
results as commands, the pseudo-commands, the public API as host programs, the textual digest. -/

namespace Sys2Proof.Machine

/-- The result of one read of the byte source (45_host_protocol R120, R121). -/
inductive ReadResult where
  /-- `n` bytes, `1 ≤ n ≤ 64`. -/
  | bytes (bs : List Byte)
  /-- Zero bytes, no error: end of input. -/
  | endOfInput
  /-- The read failed. -/
  | error
deriving DecidableEq, Repr

/-- The DATA command that carries `bs`; the rest of the payload is zero (30_encoding R56). -/
def dataCommand (bs : List Byte) : Instr := .data (BitVec.ofNat 7 bs.length) (blockOfBytes bs)

/-- Each read result becomes exactly one command (45_host_protocol R121). A read that returns no
bytes and no error is the end of input. -/
def commandOfRead : ReadResult → Instr
  | .bytes [] => .endCmd
  | .bytes (b :: bs) => dataCommand (b :: bs)
  | .endOfInput => .endCmd
  | .error => .fail

/-- `ABSORB B` for a cut of `B` into pieces: one DATA for each (30_encoding R66). -/
def dataCommands (pieces : List (List Byte)) : List Instr := pieces.map dataCommand

/-- `B[64k .. min(64k+64, n))` for `k` in `0..⌈n/64⌉−1` (30_encoding R66). -/
def piecesOf64 (b : List Byte) : List (List Byte) :=
  (List.range ((b.length + 63) / 64)).map fun k => (b.drop (64 * k)).take 64

/-- `ABSORB B` (30_encoding R66). -/
def absorbProgram (b : List Byte) : List Instr := dataCommands (piecesOf64 b)

/-- `READDIGEST`: RDDIG 0 to RDDIG 7 (30_encoding R66). -/
def readDigestProgram : List Instr := (List.range 8).map fun i => .rddig (BitVec.ofNat 3 i)

/-- `HASH B`, which is `digest(bytes)` (30_encoding R66; 45_host_protocol R124). -/
def hashProgram (b : List Byte) : List Instr :=
  [.init] ++ absorbProgram b ++ [.endCmd] ++ readDigestProgram

/-- The commands of `digest(stream)` for the read results in the order the reads return: INIT, then
one command for each, up to the first end of input or error; after an end, READDIGEST
(45_host_protocol R125). -/
def streamProgram : List ReadResult → List Instr := fun rs => .init :: go rs
where
  /-- The loop of 45_host_protocol R125. -/
  go : List ReadResult → List Instr
    | [] => []
    | .bytes [] :: _ => .endCmd :: readDigestProgram
    | .bytes (b :: bs) :: rest => dataCommand (b :: bs) :: go rest
    | .endOfInput :: _ => .endCmd :: readDigestProgram
    | .error :: _ => [.fail]

/-- The sample by which an obedient host issues a command: it takes the response at once
(45_host_protocol R122, duty 1). -/
def sampleOf (i : Instr) : PortInput := commandSample (encodeWord i) (encodeBus i)

/-- Issues the commands one after the other, each on the state the one before it left
(20_memory R46), and collects the responses. Stops at a fault or a refusal. -/
def runCommands : List Instr → State → Host.Outcome (State × List (RCode × Word)) Fault Refusal
  | [], s => .next (s, [])
  | i :: is, s =>
    match exec i s with
    | .next t =>
      match runCommands is t with
      | .next (u, rs) => .next (u, (t.rcode, t.rdata) :: rs)
      | .fault r => .fault r
      | .refused r => .refused r
    | .fault r => .fault r
    | .refused r => .refused r

/-- The bytes a host reads from the responses of READDIGEST (45_host_protocol R124). -/
def bytesOfResponses (rs : List (RCode × Word)) : List Byte := rs.flatMap fun r => unpackBE32 r.2

/-- One lowercase hexadecimal digit. -/
def hexDigit (v : BitVec 4) : Char :=
  ['0', '1', '2', '3', '4', '5', '6', '7', '8', '9', 'a', 'b', 'c', 'd', 'e', 'f'].getD v.toNat '0'

/-- The textual form of a digest: two lowercase hexadecimal characters per byte, the high nibble
first, no separators (45_host_protocol R128). -/
def digestText (bs : List Byte) : List Char :=
  bs.flatMap fun b => [hexDigit (b.extractLsb' 4 4), hexDigit (b.extractLsb' 0 4)]

end Sys2Proof.Machine
end

