-- ==== Sys2Proof/Machine/Assembler.lean ====
section
/-! DEFINITION. The textual syntax for command sequences (30_encoding R65) and the pseudo-commands
(30_encoding R66), on lists of characters. -/

namespace Sys2Proof.Machine

/-- What a line assembles to. -/
inductive Assembled where
  /-- The command words with their payload buses, in order. -/
  | commands (cs : List (BitVec 32 × BitVec 512))
  /-- A comment line: nothing. -/
  | comment
  /-- The assembler refuses the line (30_encoding R65). -/
  | refused
deriving DecidableEq, Repr

/-- The rest of `cs` after `pre`. -/
def afterPrefix : List Char → List Char → Option (List Char)
  | [], cs => some cs
  | _ :: _, [] => none
  | p :: pre, c :: cs => if p = c then afterPrefix pre cs else none

/-- A hexadecimal digit. Both cases are taken (notes/assumptions/16.md). -/
def hexValue (c : Char) : Option Nat :=
  if 48 ≤ c.toNat ∧ c.toNat ≤ 57 then some (c.toNat - 48)
  else if 97 ≤ c.toNat ∧ c.toNat ≤ 102 then some (c.toNat - 87)
  else if 65 ≤ c.toNat ∧ c.toNat ≤ 70 then some (c.toNat - 55)
  else none

/-- A decimal digit. -/
def decValue (c : Char) : Option Nat :=
  if 48 ≤ c.toNat ∧ c.toNat ≤ 57 then some (c.toNat - 48) else none

/-- A number in the base of its digits, most significant first. -/
def numeral (digit : Char → Option Nat) (base : Nat) : List Char → Nat → Option Nat
  | [], acc => some acc
  | c :: cs, acc =>
    match digit c with
    | some v => numeral digit base cs (acc * base + v)
    | none => none

/-- `hh...`: an even number of hexadecimal digits. -/
def hexBytes : List Char → Option (List Byte)
  | [] => some []
  | [_] => none
  | a :: b :: cs =>
    match hexValue a, hexValue b, hexBytes cs with
    | some x, some y, some bs => some (BitVec.ofNat 8 (16 * x + y) :: bs)
    | _, _, _ => none

/-- The characters up to the closing quote, which ends the line; each is one ASCII byte. -/
def quotedBytes : List Char → Option (List Byte)
  | [] => none
  | ['"'] => some []
  | c :: cs =>
    if c.toNat < 128 ∧ c ≠ '"' then
      match quotedBytes cs with
      | some bs => some (BitVec.ofNat 8 c.toNat :: bs)
      | none => none
    else none

/-- The characters before and after the first `x`. -/
def splitAtX : List Char → Option (List Char × List Char)
  | [] => none
  | c :: cs =>
    if c = 'x' then some ([], cs)
    else
      match splitAtX cs with
      | some (a, b) => some (c :: a, b)
      | none => none

/-- `<n>x<hh>`: `n` copies of one byte. -/
def filledBytes (cs : List Char) : Option (List Byte) :=
  match splitAtX cs with
  | some (d :: ds, [a, b]) =>
    match numeral decValue 10 (d :: ds) 0, hexBytes [a, b] with
    | some n, some [v] => some (List.replicate n v)
    | _, _ => none
  | _ => none

/-- A byte operand: `"<text>"`, `hex:<hh...>` or `fill:<n>x<hh>` (30_encoding R65). -/
def byteOperand (cs : List Char) : Option (List Byte) :=
  match cs with
  | '"' :: rest => quotedBytes rest
  | _ =>
    match afterPrefix ['h', 'e', 'x', ':'] cs, afterPrefix ['f', 'i', 'l', 'l', ':'] cs with
    | some rest, _ => hexBytes rest
    | none, some rest => filledBytes rest
    | none, none => none

/-- The words and buses of a list of commands. -/
def encoded (is : List Instr) : Assembled := .commands (is.map fun i => (encodeWord i, encodeBus i))

/-- The DATA line's operand: 1 to 64 bytes (30_encoding R65). -/
def assembleData (cs : List Char) : Assembled :=
  match byteOperand cs with
  | some bs => if 1 ≤ bs.length ∧ bs.length ≤ 64 then encoded [dataCommand bs] else .refused
  | none => .refused

/-- The RDDIG line's operand: `<i>` from 0 to 7 (30_encoding R65). -/
def assembleRddig (cs : List Char) : Assembled :=
  match cs with
  | [c] =>
    match decValue c with
    | some v => if v ≤ 7 then encoded [.rddig (BitVec.ofNat 3 v)] else .refused
    | none => .refused
  | _ => .refused

/-- `.word 0x<hhhhhhhh>`: the word given, legal or not, with an all-zero payload (30_encoding R65). -/
def assembleWord (cs : List Char) : Assembled :=
  match cs with
  | '0' :: 'x' :: ds =>
    if ds.length = 8 then
      match numeral hexValue 16 ds 0 with
      | some v => .commands [(BitVec.ofNat 32 v, 0)]
      | none => .refused
    else .refused
  | _ => .refused

/-- A line that begins with `name` and a blank, handed on to `k`; any other line to `other`. -/
def withOperand (name cs : List Char) (k : List Char → Assembled) (other : Assembled) : Assembled :=
  match afterPrefix (name ++ [' ']) cs with
  | some rest => k rest
  | none => other

/-- One line of a command sequence, mnemonic first (30_encoding R65, R66). -/
def assembleLine (cs : List Char) : Assembled :=
  if cs.head? = some ';' then .comment
  else if cs = ['I', 'N', 'I', 'T'] then encoded [.init]
  else if cs = ['E', 'N', 'D'] then encoded [.endCmd]
  else if cs = ['F', 'A', 'I', 'L'] then encoded [.fail]
  else if cs = ['R', 'D', 'S', 'T', 'A', 'T'] then encoded [.rdstat]
  else if cs = ['R', 'E', 'A', 'D', 'D', 'I', 'G', 'E', 'S', 'T'] then encoded readDigestProgram
  else
    withOperand ['D', 'A', 'T', 'A'] cs assembleData <|
    withOperand ['R', 'D', 'D', 'I', 'G'] cs assembleRddig <|
    withOperand ['.', 'w', 'o', 'r', 'd'] cs assembleWord <|
    withOperand ['A', 'B', 'S', 'O', 'R', 'B'] cs
      (fun rest =>
        match byteOperand rest with
        | some bs => encoded (absorbProgram bs)
        | none => .refused) <|
    withOperand ['H', 'A', 'S', 'H'] cs
      (fun rest =>
        match byteOperand rest with
        | some bs => encoded (hashProgram bs)
        | none => .refused) <|
    .refused

end Sys2Proof.Machine
end

