-- ==== Sys2Proof/Machine/Reference.lean ====
section
/-! DEFINITION. The digest as a function of the bytes alone (44_streaming R119), written without any
session, buffer or counter, to hold the machine against. -/

namespace Sys2Proof.Machine

/-- `B[64k .. 64k+64)` as a block. -/
def blockAt (b : List Byte) (k : Nat) : Block := blockOfBytes ((b.drop (64 * k)).take 64)

/-- `H` after the complete blocks of `b`, from `H0` (44_streaming R119). -/
def hashOfBlocks (b : List Byte) : HashState :=
  (List.range (b.length / 64)).foldl (fun h k => compressH h (blockAt b k)) H0

/-- The bytes of `b` after its complete blocks. -/
def tailBytes (b : List Byte) : List Byte := b.drop (64 * (b.length / 64))

/-- The words `H[0..7]` of `SHA256(B)` (44_streaming R119). -/
def sha256Words (b : List Byte) : HashState :=
  (pad (tailBytes b) (BitVec.ofNat 64 (8 * b.length))).foldl compressH (hashOfBlocks b)

/-- `SHA256(B)`, 32 bytes (44_streaming R119). -/
def sha256 (b : List Byte) : List Byte := digestBytes (sha256Words b)

end Sys2Proof.Machine
end

