-- ==== Sys2Proof/Machine/System.lean ====
section
/-! DEFINITION. Several engine instances (20_memory R47; 60_exceptions R142): each has its own state
and its own ports, and nothing is shared. -/

namespace Sys2Proof.Machine

/-- `N_INSTANCES` engines, each in IDLE after its own reset (60_exceptions R142). Each has its own
number, which keys its free values: what one engine leaves unspecified has nothing to do with what
another does (10_state R26; 20_memory R47; notes/assumptions/12.md). -/
def systemReset : List State :=
  (List.range Config.nInstances).map fun k => { State.reset with engine := k }

/-- One step of engine `k`, the others standing still. No order between engines is given or needed
(20_memory R47), so which engine moves is the caller's to say (notes/assumptions/12.md). An engine
that does not exist has no step. -/
def systemStep (k : Nat) (sys : List State) : Host.Outcome (List State) Fault Refusal :=
  match sys[k]? with
  | none => .next sys
  | some s =>
    match step s with
    | .next t => .next (sys.set k t)
    | .fault r => .fault r
    | .refused r => .refused r

end Sys2Proof.Machine
end

