-- ==== Sys2Proof/Safety.lean ====
section
/-! DEFINITION. What counts as a safe state and a safe step, in the terms the statements use. -/

namespace Sys2Proof.Machine

/-- What every run keeps: in an open session `FILL ≤ 63` (10_state R19), `BITLEN` is a multiple of 8
within the bound (40_primitives R70; 44_streaming R110), and `FILL` is the number of bytes accepted
since INIT, modulo 64 (10_state R18; 43_padding R95). Outside ABSORB the two hold no defined value
(10_state R28, R30), so nothing is said of them. -/
def State.Inv (s : State) : Prop :=
  s.sess = .absorb →
    s.fill.toNat ≤ 63 ∧ s.bitlen.toNat ≤ 2 ^ 64 - 8 ∧ s.bitlen.toNat % 8 = 0 ∧
      s.fill.toNat = s.bitlen.toNat / 8 % 64

/-- A claim about a run takes this as a premise at the run's end (44_streaming R117). -/
def State.Claimable (s : State) : Prop := s.refused = false

/-- The host never takes the pending response and never resets the engine: the engine is stuck
(70_reset_and_hazards R150). -/
def State.HostStuck (s : State) : Prop :=
  s.rspValid = true ∧ ∀ p ∈ s.inputs, p.rst = false ∧ p.rspReady = false

/-- A step that goes on, and whose end a claim may be made about. -/
def SafeStep (s t : State) : Prop := step s = .next t ∧ t.Claimable

end Sys2Proof.Machine
end

