-- ==== Sys2Proof/Certificates/Slice0/Obligations.lean ====
section
/-! DEFINITION. The statements about the model. Each docstring names the rule of spec/ it formalises,
or says which log entry it rests on. -/

open Sys2Proof Sys2Proof.Machine

/-! ## Encoding -/

/-- 30_encoding R58, R59: the match and mask table decodes exactly the legal words, and no word
selects two rows. -/
def Obligations.DecoderFollowsLegal : Prop :=
  ∀ (w : BitVec 32) (bus : BitVec 512),
    ((∃ i, decode w bus = .instr i) ↔ legal w = true) ∧
      (decodeRows.filter (fun r => r.selects w)).length ≤ 1

/-- 30_encoding R54 to R57: every well-formed command, at every operand value, is what its encoding
decodes to. -/
def Obligations.DecodeOfEncode : Prop :=
  ∀ i : Instr, i.wellFormed = true → decode (encodeWord i) (encodeBus i) = .instr i

/-- 30_encoding R53 to R57: a decoded command is well formed and has no other word; for DATA no other
payload. -/
def Obligations.DecodeDeterminesWord : Prop :=
  ∀ (w : BitVec 32) (bus : BitVec 512) (i : Instr), decode w bus = .instr i →
    i.wellFormed = true ∧ encodeWord i = w ∧ (∀ n p, i = .data n p → encodeBus i = bus)

/-- 30_encoding R57, R65, written out bit by bit: RSV2 IDX RSV1 LEN RSV0 OP. -/
def Obligations.WrittenWordsDecode : Prop :=
  decode 0b0000000000000_000_0_0000000_0000_0001 0 = .instr .init ∧
  decode 0b0000000000000_000_0_1000000_0000_0010 0 = .instr (.data 64 (payloadOfBus 0)) ∧
  decode 0b0000000000000_000_0_0000011_0000_0010 0 = .instr (.data 3 (payloadOfBus 0)) ∧
  decode 0b0000000000000_000_0_0000000_0000_0011 0 = .instr .endCmd ∧
  decode 0b0000000000000_000_0_0000000_0000_0100 0 = .instr .fail ∧
  decode 0b0000000000000_101_0_0000000_0000_0101 0 = .instr (.rddig 5) ∧
  decode 0b0000000000000_000_0_0000000_0000_0110 0 = .instr .rdstat

/-- 30_encoding R56: lanes of the payload bus, and the bytes that have no effect. -/
def Obligations.UnusedPayloadHasNoEffect : Prop :=
  (∀ (bus : BitVec 512) (j k : Nat) (hj : j < 64), k < 8 →
    ((payloadOfBus bus)[j]).getLsbD k = bus.getLsbD (504 - 8 * j + k)) ∧
  (∀ (n : BitVec 7) (p q : Block) (s : State),
    (∀ (j : Nat) (hj : j < 64), j < n.toNat → p[j] = q[j]) → exec (.data n p) s = exec (.data n q) s) ∧
  (∀ (w : BitVec 32) (bus bus' : BitVec 512) (s : State),
    opField w ≠ 2 → perform w bus s = perform w bus' s)

/-! ## Primitives and constants -/

/-- 40_primitives R67, on unbounded naturals. -/
def Obligations.RotrWraps : Prop :=
  (∀ (x : Word) (n : Nat), (rotr x n).toNat =
    if n % 32 = 0 then x.toNat
    else ((x.toNat >>> (n % 32)) ||| (x.toNat <<< (32 - n % 32))) % 2 ^ 32) ∧
  (∀ (x : Word) (n : Nat), rotr x (n + 32) = rotr x n) ∧
  rotr 0x12345678 8 = 0x78123456

/-- 40_primitives R68 and R69: the shift is a division, sums wrap whatever their number of terms. -/
def Obligations.ShrDividesAddWraps : Prop :=
  (∀ (x : Word) (n : Fin 32), (shr x n).toNat = x.toNat / 2 ^ n.val) ∧
  (∀ (x : Word) (ys : List Word),
    (ys.foldl add32 x).toNat = (x.toNat + (ys.map BitVec.toNat).sum) % 2 ^ 32)

/-- 40_primitives R71, R72, R73: big-endian packing, its inverse, and the 8-byte serializer. -/
def Obligations.BigEndianPacking : Prop :=
  (∀ b0 b1 b2 b3 : Byte, (packBE32 b0 b1 b2 b3).toNat =
    b0.toNat * 2 ^ 24 + b1.toNat * 2 ^ 16 + b2.toNat * 2 ^ 8 + b3.toNat) ∧
  (∀ b0 b1 b2 b3 : Byte, unpackBE32 (packBE32 b0 b1 b2 b3) = [b0, b1, b2, b3]) ∧
  (∀ x : Word, ∃ b0 b1 b2 b3, unpackBE32 x = [b0, b1, b2, b3] ∧ packBE32 b0 b1 b2 b3 = x) ∧
  (∀ v : BitVec 64, (packBE64 v).length = 8 ∧
    ∀ k, k < 8 → ((packBE64 v).getD k 0).toNat = v.toNat / 2 ^ (56 - 8 * k) % 256)

/-- 40_primitives R74, R75, bit by bit: two rotations and one shift. -/
def Obligations.SmallSigmasBitwise : Prop :=
  ∀ (x : Word) (i : Nat), i < 32 →
    (smallSigma0 x).getLsbD i =
      ((x.getLsbD ((i + 7) % 32) ^^ x.getLsbD ((i + 18) % 32)) ^^
        (decide (i + 3 < 32) && x.getLsbD (i + 3))) ∧
    (smallSigma1 x).getLsbD i =
      ((x.getLsbD ((i + 17) % 32) ^^ x.getLsbD ((i + 19) % 32)) ^^
        (decide (i + 10 < 32) && x.getLsbD (i + 10)))

/-- 40_primitives R76, R77, bit by bit: three rotations. -/
def Obligations.BigSigmasBitwise : Prop :=
  ∀ (x : Word) (i : Nat), i < 32 →
    (bigSigma0 x).getLsbD i =
      ((x.getLsbD ((i + 2) % 32) ^^ x.getLsbD ((i + 13) % 32)) ^^ x.getLsbD ((i + 22) % 32)) ∧
    (bigSigma1 x).getLsbD i =
      ((x.getLsbD ((i + 6) % 32) ^^ x.getLsbD ((i + 11) % 32)) ^^ x.getLsbD ((i + 25) % 32))

/-- 40_primitives R78, R79: choose selects, majority is the value held by at least two. -/
def Obligations.ChooseAndMajority : Prop :=
  ∀ (x y z : Word) (i : Nat), i < 32 →
    (ch x y z).getLsbD i = (if x.getLsbD i then y.getLsbD i else z.getLsbD i) ∧
    ((maj x y z).getLsbD i = true ↔
      2 ≤ ([x.getLsbD i, y.getLsbD i, z.getLsbD i].filter id).length)

/-- 40_primitives R82: `H0` from the square roots of the first 8 primes, `K` from the cube roots of the
first 64. -/
def Obligations.TablesAreRootsOfPrimes : Prop :=
  firstPrimes = (List.range 312).filter (fun p => decide p.Prime) ∧ firstPrimes.length = 64 ∧
  (∀ (i : Nat) (hi : i < 8), ∃ r : Nat,
    r ^ 2 ≤ firstPrimes.getD i 0 * 2 ^ 64 ∧ firstPrimes.getD i 0 * 2 ^ 64 < (r + 1) ^ 2 ∧
      H0[i].toNat = r % 2 ^ 32) ∧
  (∀ (t : Nat) (ht : t < 64), ∃ r : Nat,
    r ^ 3 ≤ firstPrimes.getD t 0 * 2 ^ 96 ∧ firstPrimes.getD t 0 * 2 ^ 96 < (r + 1) ^ 3 ∧
      K[t].toNat = r % 2 ^ 32)

/-- 20_memory R37: digest byte `4i + k` is `H[i][31-8k : 24-8k]`. -/
def Obligations.DigestIsBigEndian : Prop :=
  ∀ h : HashState, (digestBytes h).length = 32 ∧
    ∀ (i k : Nat) (hi : i < 8), k < 4 →
      (digestBytes h).getD (4 * i + k) 0 = h[i].extractLsb' (24 - 8 * k) 8

/-! ## Schedule and compression -/

/-- 41_schedule R84, R85: the sixteen copied words and the recurrence of the others. -/
def Obligations.ScheduleRecurrence : Prop :=
  ∀ blk : Block,
    (∀ (i : Nat) (hi : i < 16), (schedule blk)[i] =
      packBE32 blk[4 * i] blk[4 * i + 1] blk[4 * i + 2] blk[4 * i + 3]) ∧
    (∀ (i : Nat) (hi : i < 64), 16 ≤ i → (schedule blk)[i] =
      (schedule blk)[i - 16] + smallSigma0 (schedule blk)[i - 15] + (schedule blk)[i - 7] +
        smallSigma1 (schedule blk)[i - 2])

/-- 42_compression R90: one round, with the rotation of 90_conflicts C6. -/
def Obligations.RoundRotates : Prop :=
  ∀ (w : Schedule) (r : RoundRegs) (t : Fin 64), ∃ t1 t2 : Word,
    t1 = r.vars.h + bigSigma1 r.vars.e + ch r.vars.e r.vars.f r.vars.g + K[t] + w[t] ∧
    t2 = bigSigma0 r.vars.a + maj r.vars.a r.vars.b r.vars.c ∧
    roundStep w r t =
      { vars :=
          { a := t1 + t2, b := r.vars.a, c := r.vars.b, d := r.vars.c,
            e := r.vars.d + t1, f := r.vars.e, g := r.vars.f, h := r.vars.g }
        t1 := t1
        t2 := t2 }

/-- 42_compression R89, R91, R92: the working variables start as `H`, the 64 rounds run in order, and
each variable is added back to the word of its position. -/
def Obligations.CompressionRunsRoundsInOrder : Prop :=
  ∀ (h : HashState) (blk : Block), ∃ r : Nat → RoundRegs,
    (r 0).vars = ⟨h[0], h[1], h[2], h[3], h[4], h[5], h[6], h[7]⟩ ∧
    (∀ t : Fin 64, r (t.val + 1) = roundStep (schedule blk) (r t.val) t) ∧
    (compressH h blk).toList =
      [h[0] + (r 64).vars.a, h[1] + (r 64).vars.b, h[2] + (r 64).vars.c, h[3] + (r 64).vars.d,
       h[4] + (r 64).vars.e, h[5] + (r 64).vars.f, h[6] + (r 64).vars.g, h[7] + (r 64).vars.h]

/-! ## Padding -/

/-- 42_compression R93; 43_padding R96, R100, R103: one or two blocks of exactly 64 bytes, which
are the data, `0x80`, as few zero bytes as reach the boundary, and the big-endian length. -/
def Obligations.PaddingIsWholeBlocks : Prop :=
  ∀ (d : List Byte) (nbits : BitVec 64), d.length ≤ 63 →
    (∀ b ∈ padBytes d nbits, b.length = 64) ∧
    (padBytes d nbits).length = (if d.length ≤ 55 then 1 else 2) ∧
    (padBytes d nbits).flatten =
      d ++ [0x80] ++ List.replicate ((if d.length ≤ 55 then 55 else 119) - d.length) 0 ++ packBE64 nbits ∧
    pad d nbits = (padBytes d nbits).map blockOfBytes ∧
    (∀ b ∈ padBytes d nbits, (blockOfBytes b).toList = b)

/-! ## The commands -/

/-- 44_streaming R107, 10_state R29: INIT completes in every state with the response (OK, 0), opens the
session, and does not write `BUF`, `W` or the working variables. The rules leave the contents of these
unspecified; that they are the ones from before is the model's choice (notes/assumptions/6.md). -/
def Obligations.InitStartsFreshSession : Prop :=
  ∀ s : State, exec .init s =
    .next { s with sess := .absorb, h := H0, bitlen := 0, fill := 0, rcode := .ok, rdata := 0 }

/-- 20_memory R45: the three idempotent commands. -/
def Obligations.IdempotentCommands : Prop :=
  ∀ (i : Instr) (s t : State), (i = .init ∨ (∃ k, i = .rddig k) ∨ i = .rdstat) →
    exec i s = .next t → exec i t = .next t

/-- 44_streaming R108, R109: DATA that does not fill the buffer completes; the bytes are appended, and
`FILL`, `BITLEN` and the response follow. That `BUF[FILL+n..64)` and the scratch keep their values is
the model's choice: 10_state R18 gives those bytes no defined value (notes/assumptions/6.md). -/
def Obligations.DataAppendsBytes : Prop :=
  ∀ (s : State) (n : BitVec 7) (p : Block), s.sess = .absorb → 1 ≤ n.toNat → n.toNat ≤ 64 →
    s.bitlen.toNat + 8 * n.toNat ≤ 2 ^ 64 - 8 → s.fill.toNat + n.toNat < 64 →
    ∃ b : Block,
      exec (.data n p) s =
        .next { s with
          buf := b
          fill := BitVec.ofNat 7 (s.fill.toNat + n.toNat)
          bitlen := BitVec.ofNat 64 (s.bitlen.toNat + 8 * n.toNat)
          rcode := .ok
          rdata := 0 } ∧
      ∀ (j : Nat) (hj : j < 64), b[j] =
        if s.fill.toNat ≤ j ∧ j < s.fill.toNat + n.toNat then p.toList.getD (j - s.fill.toNat) 0
        else s.buf[j]

/-- 44_streaming R108, R109: DATA that fills the buffer completes; the full block is compressed at
once, exactly once, and the rest of the bytes start the next block. -/
def Obligations.DataCompressesCompletedBlock : Prop :=
  ∀ (s : State) (n : BitVec 7) (p : Block), s.sess = .absorb → 1 ≤ n.toNat → n.toNat ≤ 64 →
    s.bitlen.toNat + 8 * n.toNat ≤ 2 ^ 64 - 8 → s.fill.toNat ≤ 63 → 64 ≤ s.fill.toNat + n.toNat →
    ∃ (t : State) (blk : Block), exec (.data n p) s = .next t ∧
      (∀ (j : Nat) (hj : j < 64), blk[j] =
        if j < s.fill.toNat then s.buf[j] else p.toList.getD (j - s.fill.toNat) 0) ∧
      t.h = compressH s.h blk ∧
      t.fill = BitVec.ofNat 7 (s.fill.toNat + n.toNat - 64) ∧
      t.bitlen = BitVec.ofNat 64 (s.bitlen.toNat + 8 * n.toNat) ∧
      (∀ (j : Nat) (hj : j < 64), j < t.fill.toNat →
        t.buf[j] = p.toList.getD (64 - s.fill.toNat + j) 0) ∧
      t.sess = .absorb ∧ t.rcode = .ok ∧ t.rdata = 0 ∧ t.rspValid = s.rspValid ∧
      t.inputs = s.inputs ∧ t.refused = s.refused

/-- 44_streaming R110: DATA past the bound is refused by name, and the step that would run it sets the
refusal mark and makes no other change. That the command leaves the port is the model's own
(notes/assumptions/7.md, 8.md). -/
def Obligations.DataPastTheBoundIsRefused : Prop :=
  ∀ (s : State) (n : BitVec 7) (p : Block), s.sess = .absorb → 1 ≤ n.toNat → n.toNat ≤ 64 →
    2 ^ 64 - 8 < s.bitlen.toNat + 8 * n.toNat →
    exec (.data n p) s = .refused .lengthOverflow ∧
    ∀ (q : PortInput) (rest : List PortInput), s.inputs = q :: rest → q.rst = false →
      s.rspValid = false → q.cmdValid = true → decode q.cmdWord q.cmdPayload = .instr (.data n p) →
      step s = .next { s with inputs := rest, refused := true }

/-- 44_streaming R117: the mark is never cleared, and only the length bound sets it. That the sample is
consumed is the model's own (notes/assumptions/7.md, 8.md). -/
def Obligations.RefusalMarkIsSticky : Prop :=
  ∀ s t : State, step s = .next t →
    (s.refused = true → t.refused = true) ∧
    (s.refused = false → t.refused = true →
      ∃ q rest n p, s.inputs = q :: rest ∧ q.rst = false ∧ s.rspValid = false ∧ q.cmdValid = true ∧
        decode q.cmdWord q.cmdPayload = .instr (.data n p) ∧ s.sess = .absorb ∧
        2 ^ 64 - 8 < s.bitlen.toNat + 8 * n.toNat ∧
        t = { s with inputs := rest, refused := true })

/-- The model's own answer to a DATA term that no legal word encodes (notes/assumptions/11.md). -/
def Obligations.IllFormedDataAnswersIllegal : Prop :=
  ∀ (s : State) (n : BitVec 7) (p : Block), n.toNat = 0 ∨ 64 < n.toNat →
    exec (.data n p) s = .next { s with rcode := .illegal, rdata := 0 }

/-- The model's own stop, in states that no run reaches: `FILL` above 63 in an open session
(notes/assumptions/10.md). -/
def Obligations.FullBufferFaults : Prop :=
  ∀ s : State, s.sess = .absorb → 63 < s.fill.toNat →
    exec .endCmd s = .fault .fillOutOfRange ∧
    ∀ (n : BitVec 7) (p : Block), 1 ≤ n.toNat → n.toNat ≤ 64 →
      s.bitlen.toNat + 8 * n.toNat ≤ 2 ^ 64 - 8 → exec (.data n p) s = .fault .fillOutOfRange

/-- 43_padding R97, 44_streaming R111: END with `L ≤ 55` completes, compressing the one padding block
of R97 byte by byte. What `BUF`, `FILL`, `BITLEN` and the scratch hold afterwards is not said. -/
def Obligations.EndCompressesOnePaddingBlock : Prop :=
  ∀ s : State, s.sess = .absorb → s.fill.toNat ≤ 55 →
    ∃ (t : State) (blk : Block), exec .endCmd s = .next t ∧
      (∀ (j : Nat) (hj : j < 64), blk[j] =
        if j < s.fill.toNat then s.buf[j]
        else if j = s.fill.toNat then 0x80
        else if j < 56 then 0
        else s.bitlen.extractLsb' (8 * (63 - j)) 8) ∧
      t.h = compressH s.h blk ∧ t.sess = .done ∧ t.rcode = .ok ∧ t.rdata = 0 ∧
      t.rspValid = s.rspValid ∧ t.inputs = s.inputs ∧ t.refused = s.refused

/-- 43_padding R98, R99, 44_streaming R111: END with `56 ≤ L ≤ 63` completes, compressing the block of
R98 and right after it the block of R99. -/
def Obligations.EndCompressesTwoPaddingBlocks : Prop :=
  ∀ s : State, s.sess = .absorb → 56 ≤ s.fill.toNat → s.fill.toNat ≤ 63 →
    ∃ (t : State) (first second : Block), exec .endCmd s = .next t ∧
      (∀ (j : Nat) (hj : j < 64), first[j] =
        if j < s.fill.toNat then s.buf[j] else if j = s.fill.toNat then 0x80 else 0) ∧
      (∀ (j : Nat) (hj : j < 64), second[j] =
        if j < 56 then 0 else s.bitlen.extractLsb' (8 * (63 - j)) 8) ∧
      t.h = compressH (compressH s.h first) second ∧ t.sess = .done ∧ t.rcode = .ok ∧ t.rdata = 0 ∧
      t.rspValid = s.rspValid ∧ t.inputs = s.inputs ∧ t.refused = s.refused

/-- 43_padding R104: the digest does not depend on `BUF[FILL..64)`, nor on any scratch. -/
def Obligations.NoStaleBufferByte : Prop :=
  ∀ s₁ s₂ : State, s₁.sess = .absorb → s₂.sess = .absorb → s₁.h = s₂.h → s₁.bitlen = s₂.bitlen →
    s₁.fill = s₂.fill → s₁.fill.toNat ≤ 63 →
    (∀ (j : Nat) (hj : j < 64), j < s₁.fill.toNat → s₁.buf[j] = s₂.buf[j]) →
    ∃ t₁ t₂, exec .endCmd s₁ = .next t₁ ∧ exec .endCmd s₂ = .next t₂ ∧ t₁.h = t₂.h

/-- 44_streaming R112: FAIL in an open session completes with IOERR. Nothing is said of the data
elements, which are unspecified from then on (10_state R30). -/
def Obligations.FailAbortsTheSession : Prop :=
  ∀ s : State, s.sess = .absorb → ∃ t, exec .fail s = .next t ∧ t.sess = .failed ∧
    t.rcode = .ioerr ∧ t.rdata = 0 ∧ t.rspValid = s.rspValid ∧ t.inputs = s.inputs ∧
    t.refused = s.refused

/-- 44_streaming R113: RDDIG in DONE answers the digest word and changes nothing else. -/
def Obligations.RddigReadsDigestWord : Prop :=
  ∀ (s : State) (i : BitVec 3), s.sess = .done →
    exec (.rddig i) s = .next { s with rcode := .ok, rdata := s.h.toList.getD i.toNat 0 }

/-- 30_encoding R64, 44_streaming R114: RDSTAT completes in every session state; `SESS` in bits [1:0],
`FILL` in bits [14:8] in ABSORB only, every other bit 0; nothing else changes. -/
def Obligations.RdstatReadsStatus : Prop :=
  ∀ s : State, ∃ d : Word, exec .rdstat s = .next { s with rcode := .ok, rdata := d } ∧
    d.toNat =
      (match s.sess with
        | .idle => 0
        | .absorb => 1 + 2 ^ 8 * s.fill.toNat
        | .done => 2
        | .failed => 3)

/-! ## The session -/

/-- 44_streaming R106, cell by cell. A cell whose action is "—" changes nothing but the response. -/
def Obligations.SessionTable : Prop :=
  ∀ (i : Instr) (s : State), i.wellFormed = true →
    ((i = .endCmd ∨ i = .fail ∨ ∃ n p, i = .data n p) → s.sess ≠ .absorb →
      exec i s = .next { s with rcode := if s.sess = .failed then .ioerr else .state, rdata := 0 }) ∧
    ((∃ k, i = .rddig k) → s.sess ≠ .done →
      exec i s = .next { s with rcode := if s.sess = .failed then .ioerr else .state, rdata := 0 }) ∧
    (∀ t, exec i s = .next t →
      (i = .init → t.sess = .absorb ∧ t.rcode = .ok) ∧
      ((∃ n p, i = .data n p) → s.sess = .absorb → t.sess = .absorb ∧ t.rcode = .ok) ∧
      (i = .endCmd → s.sess = .absorb → t.sess = .done ∧ t.rcode = .ok) ∧
      (i = .fail → s.sess = .absorb → t.sess = .failed ∧ t.rcode = .ioerr) ∧
      ((∃ k, i = .rddig k) → s.sess = .done → t.sess = .done ∧ t.rcode = .ok) ∧
      (i = .rdstat → t.sess = s.sess ∧ t.rcode = .ok))

/-- 44_streaming R115: in DONE every command but INIT completes, and changes nothing but the
response. -/
def Obligations.DigestIsImmutable : Prop :=
  ∀ (i : Instr) (s : State), i.wellFormed = true → s.sess = .done → i ≠ .init →
    ∃ c d, exec i s = .next { s with rcode := c, rdata := d }

/-- 60_exceptions R133, R131: after an abort every command but INIT and RDSTAT answers IOERR with data
0, for as long as no INIT is issued. -/
def Obligations.FailedUntilInit : Prop :=
  ∀ (is : List Instr) (s : State), s.sess = .failed →
    (∀ i ∈ is, i.wellFormed = true ∧ i ≠ .init) →
    ∃ t, runCommands is s =
        .next (t, is.map fun i => if i = .rdstat then (.ok, 3) else (.ioerr, 0)) ∧
      t.sess = .failed

/-- 60_exceptions R132: no error is fatal. Every well-formed command is answered, save for the length
bound, and INIT leads to ABSORB from every state. -/
def Obligations.EveryCommandIsAnswered : Prop :=
  (∀ (i : Instr) (s : State), i.wellFormed = true → s.Inv →
    (∃ t, exec i s = .next t) ∨
      (∃ n p, i = .data n p ∧ s.sess = .absorb ∧ 2 ^ 64 - 8 < s.bitlen.toNat + 8 * n.toNat ∧
        exec i s = .refused .lengthOverflow)) ∧
  (∀ s : State, ∃ t, exec .init s = .next t ∧ t.sess = .absorb ∧ t.Inv)

/-- 10_state R27, 60_exceptions R133: before a session is finalized no response depends on `H`, `BUF`,
`BITLEN`, `W` or the working variables, over any sequence of commands without END that completes from
both states. -/
def Obligations.PartialHashNeverExposed : Prop :=
  ∀ (is : List Instr) (s₁ s₂ t₁ t₂ : State) (rs₁ rs₂ : List (RCode × Word)),
    s₁.sess = s₂.sess → s₁.sess ≠ .done →
    (s₁.sess = .absorb → s₁.fill = s₂.fill) →
    (∀ i ∈ is, i ≠ .endCmd) →
    runCommands is s₁ = .next (t₁, rs₁) → runCommands is s₂ = .next (t₂, rs₂) → rs₁ = rs₂

/-! ## The digest -/

/-- 44_streaming R119: from any state, INIT, the bytes cut in any way into chunks of 1 to 64, and END
answer OK throughout and leave the words of `SHA256(B)`, a digest of 32 bytes. -/
def Obligations.SessionComputesSha256 : Prop :=
  ∀ (s : State) (pieces : List (List Byte)), (∀ c ∈ pieces, 1 ≤ c.length ∧ c.length ≤ 64) →
    8 * pieces.flatten.length < 2 ^ 64 →
    ∃ t rs, runCommands (.init :: (dataCommands pieces ++ [.endCmd])) s = .next (t, rs) ∧
      t.sess = .done ∧ t.h = sha256Words pieces.flatten ∧ (∀ r ∈ rs, r = (.ok, 0)) ∧
      (sha256 pieces.flatten).length = 32

/-- 44_streaming R118, 45_host_protocol R127: the cut into chunks and the state before INIT do not
matter. -/
def Obligations.ChunkingFreedom : Prop :=
  ∀ (s₁ s₂ t₁ t₂ : State) (c₁ c₂ : List (List Byte)) (rs₁ rs₂ : List (RCode × Word)),
    (∀ c ∈ c₁, 1 ≤ c.length ∧ c.length ≤ 64) → (∀ c ∈ c₂, 1 ≤ c.length ∧ c.length ≤ 64) →
    c₁.flatten = c₂.flatten →
    runCommands (.init :: (dataCommands c₁ ++ [.endCmd])) s₁ = .next (t₁, rs₁) →
    runCommands (.init :: (dataCommands c₂ ++ [.endCmd])) s₂ = .next (t₂, rs₂) → t₁.h = t₂.h

/-- 45_host_protocol R124: `HASH B` answers OK to every command, and its last eight responses are the
digest. -/
def Obligations.HashReturnsTheDigest : Prop :=
  ∀ (s : State) (b : List Byte), 8 * b.length < 2 ^ 64 →
    ∃ t rs, runCommands (hashProgram b) s = .next (t, rs) ∧ (∀ r ∈ rs, r.1 = .ok) ∧
      bytesOfResponses (rs.drop (rs.length - 8)) = sha256 b

/-- 45_host_protocol R121, R125: one command for each read, up to the first end or error; an error ends
in IOERR and FAILED, with no digest read. -/
def Obligations.StreamSurfacesFirstError : Prop :=
  ∀ (pieces : List (List Byte)) (later : List ReadResult),
    (∀ c ∈ pieces, 1 ≤ c.length ∧ c.length ≤ 64) →
    streamProgram (pieces.map .bytes ++ .endOfInput :: later) =
      .init :: (dataCommands pieces ++ .endCmd :: readDigestProgram) ∧
    (8 * pieces.flatten.length < 2 ^ 64 → ∀ s : State, ∃ t rs,
      runCommands (streamProgram (pieces.map .bytes ++ .error :: later)) s =
        .next (t, rs ++ [(.ioerr, 0)]) ∧
      t.sess = .failed ∧ (∀ r ∈ rs, r = (.ok, 0)) ∧ rs.length = pieces.length + 1)

/-- 45_host_protocol R128: two lowercase hexadecimal characters per byte, the high nibble first, 64 in
all for a digest. -/
def Obligations.DigestTextIsHex : Prop :=
  (∀ bs : List Byte, (digestText bs).length = 2 * bs.length ∧
    (∀ c ∈ digestText bs, c ∈ ['0', '1', '2', '3', '4', '5', '6', '7', '8', '9', 'a', 'b', 'c', 'd', 'e', 'f']) ∧
    ∀ j, j < bs.length →
      hexValue ((digestText bs).getD (2 * j) '0') = some ((bs.getD j 0).toNat / 16) ∧
      hexValue ((digestText bs).getD (2 * j + 1) '0') = some ((bs.getD j 0).toNat % 16)) ∧
  (∀ b : List Byte, (digestText (sha256 b)).length = 64)

/-- 30_encoding R65: `DATA hex:<hh...>` assembles to the DATA of its bytes, and is refused outside 1 to
64 bytes. -/
def Obligations.HexDataLineAssembles : Prop :=
  ∀ bs : List Byte,
    assembleLine (['D', 'A', 'T', 'A', ' ', 'h', 'e', 'x', ':'] ++ digestText bs) =
      if 1 ≤ bs.length ∧ bs.length ≤ 64 then
        .commands [(0x00000002 ||| (BitVec.ofNat 32 bs.length <<< 8), busOfPayload (blockOfBytes bs))]
      else .refused

/-! ## The step -/

/-- 44_streaming R105: where the port accepts a word that decodes to `i`, the step is `exec i`, with
the sample consumed, the response left pending when the host is not ready (30_encoding R52), and a
refusal turned into the mark (44_streaming R117). One sample for one step, and the whole transaction in
it, are the model's own (notes/assumptions/8.md). -/
def Obligations.StepRunsDecodedCommand : Prop :=
  ∀ (s : State) (p : PortInput) (rest : List PortInput) (i : Instr), s.inputs = p :: rest →
    p.rst = false → s.rspValid = false → p.cmdValid = true →
    decode p.cmdWord p.cmdPayload = .instr i →
    (∀ t, exec i { s with inputs := rest } = .next t →
      step s = .next { t with rspValid := !p.rspReady }) ∧
    (∀ r, exec i { s with inputs := rest } = .fault r → step s = .fault r) ∧
    (exec i { s with inputs := rest } = .refused .lengthOverflow →
      step s = .next { s with inputs := rest, refused := true })

/-- 30_encoding R60: a reserved or illegal word, each kind spelled out, is answered ILLEGAL and changes
no state, in every session state. That the sample is consumed and `rsp_valid` is `not rsp_ready` in the
same step is the model's own (notes/assumptions/8.md). -/
def Obligations.IllegalWordChangesNothing : Prop :=
  ∀ (s : State) (p : PortInput) (rest : List PortInput), s.inputs = p :: rest →
    p.rst = false → s.rspValid = false → p.cmdValid = true →
    (opField p.cmdWord = 0 ∨ 7 ≤ (opField p.cmdWord).toNat ∨
      rsv0Field p.cmdWord ≠ 0 ∨ rsv1Field p.cmdWord ≠ 0 ∨ rsv2Field p.cmdWord ≠ 0 ∨
      (opField p.cmdWord = 2 ∧ (lenField p.cmdWord = 0 ∨ 64 < (lenField p.cmdWord).toNat)) ∨
      (opField p.cmdWord ≠ 2 ∧ lenField p.cmdWord ≠ 0) ∨
      (opField p.cmdWord ≠ 5 ∧ idxField p.cmdWord ≠ 0)) →
    step s = .next { s with
      inputs := rest, rcode := .illegal, rdata := 0, rspValid := !p.rspReady }

/-- 60_exceptions R135: exactly one code, by the first check that holds. The length bound comes after
all of them. That the sample is consumed and `rsp_valid` is `not rsp_ready` in the same step is the
model's own (notes/assumptions/8.md). -/
def Obligations.CodePriority : Prop :=
  ∀ (s : State) (p : PortInput) (rest : List PortInput), s.inputs = p :: rest →
    p.rst = false → s.rspValid = false → p.cmdValid = true →
    (legal p.cmdWord = false →
      step s = .next { s with
        inputs := rest, rcode := .illegal, rdata := 0, rspValid := !p.rspReady }) ∧
    (legal p.cmdWord = true → s.sess = .failed → opField p.cmdWord ≠ 1 → opField p.cmdWord ≠ 6 →
      step s = .next { s with
        inputs := rest, rcode := .ioerr, rdata := 0, rspValid := !p.rspReady }) ∧
    (legal p.cmdWord = true → s.sess = .idle ∨ s.sess = .done ∨ s.sess = .absorb →
      (2 ≤ (opField p.cmdWord).toNat ∧ (opField p.cmdWord).toNat ≤ 4 ∧ s.sess ≠ .absorb) ∨
        (opField p.cmdWord = 5 ∧ s.sess ≠ .done) →
      step s = .next { s with
        inputs := rest, rcode := .state, rdata := 0, rspValid := !p.rspReady }) ∧
    (legal p.cmdWord = true →
      (opField p.cmdWord = 1 ∨ opField p.cmdWord = 6 ∨ (opField p.cmdWord = 5 ∧ s.sess = .done) ∨
        (2 ≤ (opField p.cmdWord).toNat ∧ (opField p.cmdWord).toNat ≤ 4 ∧ s.sess = .absorb)) →
      ∀ t, perform p.cmdWord p.cmdPayload { s with inputs := rest } = .next t →
        t.rcode = if opField p.cmdWord = 4 then .ioerr else .ok)

/-- 20_memory R46: the steps of an obedient host's samples are the commands in the order issued, each
on the state the one before it left. One whole transaction for each sample and step is the model's own
(notes/assumptions/8.md). -/
def Obligations.StepsFollowCommandOrder : Prop :=
  ∀ (is : List Instr) (s t : State) (rs : List (RCode × Word)) (rest : List PortInput),
    (∀ i ∈ is, i.wellFormed = true) → s.rspValid = false → runCommands is s = .next (t, rs) →
    Host.Core.run Sys2Proof.core is.length { s with inputs := is.map sampleOf ++ rest } =
      .next { t with inputs := rest }

/-- 70_reset_and_hazards R149: while a response is pending no command is accepted, and only taking the
response ends that. That each sample is consumed in one step is the model's own
(notes/assumptions/8.md). -/
def Obligations.OneCommandAtATime : Prop :=
  ∀ (s : State) (p : PortInput) (rest : List PortInput), s.inputs = p :: rest → p.rst = false →
    s.rspValid = true →
    cmdReady p s = false ∧ step s = .next { s with inputs := rest, rspValid := !p.rspReady }

/-- 70_reset_and_hazards R150: a host that never takes the response leaves the engine stuck. That each sample is consumed in one step, and that a step without samples
waits, are the model's own (notes/assumptions/8.md, 9.md). -/
def Obligations.UntakenResponseIsStuck : Prop :=
  ∀ (k : Nat) (s : State), s.HostStuck →
    Host.Core.run Sys2Proof.core k s = .next { s with inputs := s.inputs.drop k }

/-- 70_reset_and_hazards R152, 60_exceptions R144: waiting for a command, however long, changes
nothing. That each sample is consumed in one step, and that a step without samples waits, are the
model's own (notes/assumptions/8.md, 9.md). -/
def Obligations.WaitingChangesNothing : Prop :=
  ∀ (k : Nat) (s : State), s.rspValid = false →
    (∀ p ∈ s.inputs, p.rst = false ∧ p.cmdValid = false) →
    Host.Core.run Sys2Proof.core k s = .next { s with inputs := s.inputs.drop k }

/-- 70_reset_and_hazards R145, R146: reset overrides a command and a pending response, in every state.
Nothing is said of the data elements, which are unspecified (10_state R28). One sample for one step, and
the refusal mark that stays, are the model's own (notes/assumptions/4.md, 8.md). -/
def Obligations.ResetAbandonsTheCommand : Prop :=
  ∀ (s : State) (p : PortInput) (rest : List PortInput), s.inputs = p :: rest → p.rst = true →
    cmdReady p s = false ∧
    ∃ t, step s = .next t ∧ t.sess = .idle ∧ t.rspValid = false ∧ t.inputs = rest ∧
      t.refused = s.refused

/-! ## Reset and the invariant -/

/-- 10_state R28, 70_reset_and_hazards R145, R148: IDLE, no response pending, and until INIT every
DATA, END, FAIL and RDDIG is answered STATE, RDSTAT with 0. Nothing is said of the data elements. -/
def Obligations.ResetAwaitsInit : Prop :=
  State.reset.sess = .idle ∧ State.reset.rspValid = false ∧
  ∀ (i : Instr) (s : State), i.wellFormed = true → s.sess = .idle → i ≠ .init →
    exec i s = .next { s with rcode := if i = .rdstat then .ok else .state, rdata := 0 }

/-- The invariant holds after reset. -/
def Obligations.InvariantAtReset : Prop := State.reset.Inv

/-- 10_state R19, 40_primitives R70, 43_padding R95: whatever the host does, in an open session
`FILL ≤ 63`, `BITLEN` is a multiple of 8 within the bound, and `FILL` is the byte count modulo 64. -/
def Obligations.StepKeepsInvariant : Prop := ∀ s t : State, s.Inv → step s = .next t → t.Inv

/-! ## Several instances -/

/-- 20_memory R47: a step of one instance is its own step and changes no other instance; 60_exceptions
R142: there is at least one, and each starts in IDLE. That the caller says which instance moves, and
that naming an absent one changes nothing, are the model's own (notes/assumptions/12.md). -/
def Obligations.InstancesAreIndependent : Prop :=
  (∀ (k : Nat) (sys sys' : List State), systemStep k sys = .next sys' →
    sys'.length = sys.length ∧ (∀ j, j ≠ k → sys'[j]? = sys[j]?) ∧
    ∀ s, sys[k]? = some s → ∃ t, step s = .next t ∧ sys'[k]? = some t) ∧
  1 ≤ systemReset.length ∧ (∀ s ∈ systemReset, s.sess = .idle)
end

