-- ==== Sys2Proof/Laws/State.lean ====
section
/-! SUPPORT. One lemma for each field of State under each named update, so that no later proof unfolds
a record update. -/

namespace Sys2Proof.Machine.State

/-! ### respond -/

section
variable (s : State) (code : RCode) (data : Word)

@[simp] theorem respond_sess : (s.respond code data).sess = s.sess := rfl
@[simp] theorem respond_h : (s.respond code data).h = s.h := rfl
@[simp] theorem respond_bitlen : (s.respond code data).bitlen = s.bitlen := rfl
@[simp] theorem respond_buf : (s.respond code data).buf = s.buf := rfl
@[simp] theorem respond_fill : (s.respond code data).fill = s.fill := rfl
@[simp] theorem respond_w : (s.respond code data).w = s.w := rfl
@[simp] theorem respond_wv : (s.respond code data).wv = s.wv := rfl
@[simp] theorem respond_t1 : (s.respond code data).t1 = s.t1 := rfl
@[simp] theorem respond_t2 : (s.respond code data).t2 = s.t2 := rfl
@[simp] theorem respond_rcode : (s.respond code data).rcode = code := rfl
@[simp] theorem respond_rdata : (s.respond code data).rdata = data := rfl
@[simp] theorem respond_rspValid : (s.respond code data).rspValid = s.rspValid := rfl
@[simp] theorem respond_inputs : (s.respond code data).inputs = s.inputs := rfl
@[simp] theorem respond_refused : (s.respond code data).refused = s.refused := rfl
@[simp] theorem respond_freeCtr : (s.respond code data).freeCtr = s.freeCtr := rfl
@[simp] theorem respond_engine : (s.respond code data).engine = s.engine := rfl

end

/-! ### beginSession -/

section
variable (s : State)

@[simp] theorem beginSession_sess : (s.beginSession).sess = .absorb := rfl
@[simp] theorem beginSession_h : (s.beginSession).h = H0 := rfl
@[simp] theorem beginSession_bitlen : (s.beginSession).bitlen = 0 := rfl
@[simp] theorem beginSession_buf : (s.beginSession).buf = s.buf := rfl
@[simp] theorem beginSession_fill : (s.beginSession).fill = 0 := rfl
@[simp] theorem beginSession_w : (s.beginSession).w = s.w := rfl
@[simp] theorem beginSession_wv : (s.beginSession).wv = s.wv := rfl
@[simp] theorem beginSession_t1 : (s.beginSession).t1 = s.t1 := rfl
@[simp] theorem beginSession_t2 : (s.beginSession).t2 = s.t2 := rfl
@[simp] theorem beginSession_rcode : (s.beginSession).rcode = s.rcode := rfl
@[simp] theorem beginSession_rdata : (s.beginSession).rdata = s.rdata := rfl
@[simp] theorem beginSession_rspValid : (s.beginSession).rspValid = s.rspValid := rfl
@[simp] theorem beginSession_inputs : (s.beginSession).inputs = s.inputs := rfl
@[simp] theorem beginSession_refused : (s.beginSession).refused = s.refused := rfl
@[simp] theorem beginSession_freeCtr : (s.beginSession).freeCtr = s.freeCtr := rfl
@[simp] theorem beginSession_engine : (s.beginSession).engine = s.engine := rfl

end

/-! ### compress -/

section
variable (s : State) (blk : Block)

@[simp] theorem compress_sess : (s.compress blk).sess = s.sess := rfl
@[simp] theorem compress_h : (s.compress blk).h = compressH s.h blk := rfl
@[simp] theorem compress_bitlen : (s.compress blk).bitlen = s.bitlen := rfl
@[simp] theorem compress_buf : (s.compress blk).buf = s.buf := rfl
@[simp] theorem compress_fill : (s.compress blk).fill = s.fill := rfl
@[simp] theorem compress_w : (s.compress blk).w = schedule blk := rfl
@[simp] theorem compress_wv : (s.compress blk).wv = (compressRegs s.h blk).vars := rfl
@[simp] theorem compress_t1 : (s.compress blk).t1 = (compressRegs s.h blk).t1 := rfl
@[simp] theorem compress_t2 : (s.compress blk).t2 = (compressRegs s.h blk).t2 := rfl
@[simp] theorem compress_rcode : (s.compress blk).rcode = s.rcode := rfl
@[simp] theorem compress_rdata : (s.compress blk).rdata = s.rdata := rfl
@[simp] theorem compress_rspValid : (s.compress blk).rspValid = s.rspValid := rfl
@[simp] theorem compress_inputs : (s.compress blk).inputs = s.inputs := rfl
@[simp] theorem compress_refused : (s.compress blk).refused = s.refused := rfl
@[simp] theorem compress_freeCtr : (s.compress blk).freeCtr = s.freeCtr := rfl
@[simp] theorem compress_engine : (s.compress blk).engine = s.engine := rfl

end

/-! ### pushByte -/

section
variable (s : State) (x : Byte)

@[simp] theorem pushByte_sess : (s.pushByte x).sess = s.sess := rfl
@[simp] theorem pushByte_h : (s.pushByte x).h = s.h := rfl
@[simp] theorem pushByte_bitlen : (s.pushByte x).bitlen = s.bitlen + 8 := rfl
@[simp] theorem pushByte_buf : (s.pushByte x).buf = s.buf.setIfInBounds s.fill.toNat x := rfl
@[simp] theorem pushByte_fill : (s.pushByte x).fill = s.fill + 1 := rfl
@[simp] theorem pushByte_w : (s.pushByte x).w = s.w := rfl
@[simp] theorem pushByte_wv : (s.pushByte x).wv = s.wv := rfl
@[simp] theorem pushByte_t1 : (s.pushByte x).t1 = s.t1 := rfl
@[simp] theorem pushByte_t2 : (s.pushByte x).t2 = s.t2 := rfl
@[simp] theorem pushByte_rcode : (s.pushByte x).rcode = s.rcode := rfl
@[simp] theorem pushByte_rdata : (s.pushByte x).rdata = s.rdata := rfl
@[simp] theorem pushByte_rspValid : (s.pushByte x).rspValid = s.rspValid := rfl
@[simp] theorem pushByte_inputs : (s.pushByte x).inputs = s.inputs := rfl
@[simp] theorem pushByte_refused : (s.pushByte x).refused = s.refused := rfl
@[simp] theorem pushByte_freeCtr : (s.pushByte x).freeCtr = s.freeCtr := rfl
@[simp] theorem pushByte_engine : (s.pushByte x).engine = s.engine := rfl

end

/-! ### emptyBuffer -/

section
variable (s : State)

@[simp] theorem emptyBuffer_sess : (s.emptyBuffer).sess = s.sess := rfl
@[simp] theorem emptyBuffer_h : (s.emptyBuffer).h = s.h := rfl
@[simp] theorem emptyBuffer_bitlen : (s.emptyBuffer).bitlen = s.bitlen := rfl
@[simp] theorem emptyBuffer_buf : (s.emptyBuffer).buf = s.buf := rfl
@[simp] theorem emptyBuffer_fill : (s.emptyBuffer).fill = 0 := rfl
@[simp] theorem emptyBuffer_w : (s.emptyBuffer).w = s.w := rfl
@[simp] theorem emptyBuffer_wv : (s.emptyBuffer).wv = s.wv := rfl
@[simp] theorem emptyBuffer_t1 : (s.emptyBuffer).t1 = s.t1 := rfl
@[simp] theorem emptyBuffer_t2 : (s.emptyBuffer).t2 = s.t2 := rfl
@[simp] theorem emptyBuffer_rcode : (s.emptyBuffer).rcode = s.rcode := rfl
@[simp] theorem emptyBuffer_rdata : (s.emptyBuffer).rdata = s.rdata := rfl
@[simp] theorem emptyBuffer_rspValid : (s.emptyBuffer).rspValid = s.rspValid := rfl
@[simp] theorem emptyBuffer_inputs : (s.emptyBuffer).inputs = s.inputs := rfl
@[simp] theorem emptyBuffer_refused : (s.emptyBuffer).refused = s.refused := rfl
@[simp] theorem emptyBuffer_freeCtr : (s.emptyBuffer).freeCtr = s.freeCtr := rfl
@[simp] theorem emptyBuffer_engine : (s.emptyBuffer).engine = s.engine := rfl

end

/-! ### openAfterEnd -/

section
variable (s : State)

@[simp] theorem openAfterEnd_sess : (s.openAfterEnd).sess = s.sess := rfl
@[simp] theorem openAfterEnd_h : (s.openAfterEnd).h = s.h := rfl
@[simp] theorem openAfterEnd_bitlen : (s.openAfterEnd).bitlen = Config.freeBitlen s.engine s.freeCtr := rfl
@[simp] theorem openAfterEnd_buf : (s.openAfterEnd).buf = Vector.ofFn fun j => Config.freeBuf s.engine s.freeCtr j.val := rfl
@[simp] theorem openAfterEnd_fill : (s.openAfterEnd).fill = Config.freeFill s.engine s.freeCtr := rfl
@[simp] theorem openAfterEnd_w : (s.openAfterEnd).w = s.w := rfl
@[simp] theorem openAfterEnd_wv : (s.openAfterEnd).wv = s.wv := rfl
@[simp] theorem openAfterEnd_t1 : (s.openAfterEnd).t1 = s.t1 := rfl
@[simp] theorem openAfterEnd_t2 : (s.openAfterEnd).t2 = s.t2 := rfl
@[simp] theorem openAfterEnd_rcode : (s.openAfterEnd).rcode = s.rcode := rfl
@[simp] theorem openAfterEnd_rdata : (s.openAfterEnd).rdata = s.rdata := rfl
@[simp] theorem openAfterEnd_rspValid : (s.openAfterEnd).rspValid = s.rspValid := rfl
@[simp] theorem openAfterEnd_inputs : (s.openAfterEnd).inputs = s.inputs := rfl
@[simp] theorem openAfterEnd_refused : (s.openAfterEnd).refused = s.refused := rfl
@[simp] theorem openAfterEnd_freeCtr : (s.openAfterEnd).freeCtr = s.freeCtr + 1 := rfl
@[simp] theorem openAfterEnd_engine : (s.openAfterEnd).engine = s.engine := rfl

end

/-! ### setSess -/

section
variable (s : State) (v : Sess)

@[simp] theorem setSess_sess : (s.setSess v).sess = v := rfl
@[simp] theorem setSess_h : (s.setSess v).h = s.h := rfl
@[simp] theorem setSess_bitlen : (s.setSess v).bitlen = s.bitlen := rfl
@[simp] theorem setSess_buf : (s.setSess v).buf = s.buf := rfl
@[simp] theorem setSess_fill : (s.setSess v).fill = s.fill := rfl
@[simp] theorem setSess_w : (s.setSess v).w = s.w := rfl
@[simp] theorem setSess_wv : (s.setSess v).wv = s.wv := rfl
@[simp] theorem setSess_t1 : (s.setSess v).t1 = s.t1 := rfl
@[simp] theorem setSess_t2 : (s.setSess v).t2 = s.t2 := rfl
@[simp] theorem setSess_rcode : (s.setSess v).rcode = s.rcode := rfl
@[simp] theorem setSess_rdata : (s.setSess v).rdata = s.rdata := rfl
@[simp] theorem setSess_rspValid : (s.setSess v).rspValid = s.rspValid := rfl
@[simp] theorem setSess_inputs : (s.setSess v).inputs = s.inputs := rfl
@[simp] theorem setSess_refused : (s.setSess v).refused = s.refused := rfl
@[simp] theorem setSess_freeCtr : (s.setSess v).freeCtr = s.freeCtr := rfl
@[simp] theorem setSess_engine : (s.setSess v).engine = s.engine := rfl

end

/-! ### discardData -/

section
variable (s : State)

@[simp] theorem discardData_sess : (s.discardData).sess = s.sess := rfl
@[simp] theorem discardData_h : (s.discardData).h = Vector.ofFn fun i => Config.freeHash s.engine s.freeCtr i.val := rfl
@[simp] theorem discardData_bitlen : (s.discardData).bitlen = Config.freeBitlen s.engine s.freeCtr := rfl
@[simp] theorem discardData_buf : (s.discardData).buf = Vector.ofFn fun j => Config.freeBuf s.engine s.freeCtr j.val := rfl
@[simp] theorem discardData_fill : (s.discardData).fill = Config.freeFill s.engine s.freeCtr := rfl
@[simp] theorem discardData_w : (s.discardData).w = Vector.ofFn fun i => Config.freeSchedule s.engine s.freeCtr i.val := rfl
@[simp] theorem discardData_wv : (s.discardData).wv = freeWorkVars s.engine s.freeCtr := rfl
@[simp] theorem discardData_t1 : (s.discardData).t1 = Config.freeT1 s.engine s.freeCtr := rfl
@[simp] theorem discardData_t2 : (s.discardData).t2 = Config.freeT2 s.engine s.freeCtr := rfl
@[simp] theorem discardData_rcode : (s.discardData).rcode = s.rcode := rfl
@[simp] theorem discardData_rdata : (s.discardData).rdata = s.rdata := rfl
@[simp] theorem discardData_rspValid : (s.discardData).rspValid = s.rspValid := rfl
@[simp] theorem discardData_inputs : (s.discardData).inputs = s.inputs := rfl
@[simp] theorem discardData_refused : (s.discardData).refused = s.refused := rfl
@[simp] theorem discardData_freeCtr : (s.discardData).freeCtr = s.freeCtr + 1 := rfl
@[simp] theorem discardData_engine : (s.discardData).engine = s.engine := rfl

end

/-! ### setInputs -/

section
variable (s : State) (rest : List PortInput)

@[simp] theorem setInputs_sess : (s.setInputs rest).sess = s.sess := rfl
@[simp] theorem setInputs_h : (s.setInputs rest).h = s.h := rfl
@[simp] theorem setInputs_bitlen : (s.setInputs rest).bitlen = s.bitlen := rfl
@[simp] theorem setInputs_buf : (s.setInputs rest).buf = s.buf := rfl
@[simp] theorem setInputs_fill : (s.setInputs rest).fill = s.fill := rfl
@[simp] theorem setInputs_w : (s.setInputs rest).w = s.w := rfl
@[simp] theorem setInputs_wv : (s.setInputs rest).wv = s.wv := rfl
@[simp] theorem setInputs_t1 : (s.setInputs rest).t1 = s.t1 := rfl
@[simp] theorem setInputs_t2 : (s.setInputs rest).t2 = s.t2 := rfl
@[simp] theorem setInputs_rcode : (s.setInputs rest).rcode = s.rcode := rfl
@[simp] theorem setInputs_rdata : (s.setInputs rest).rdata = s.rdata := rfl
@[simp] theorem setInputs_rspValid : (s.setInputs rest).rspValid = s.rspValid := rfl
@[simp] theorem setInputs_inputs : (s.setInputs rest).inputs = rest := rfl
@[simp] theorem setInputs_refused : (s.setInputs rest).refused = s.refused := rfl
@[simp] theorem setInputs_freeCtr : (s.setInputs rest).freeCtr = s.freeCtr := rfl
@[simp] theorem setInputs_engine : (s.setInputs rest).engine = s.engine := rfl

end

/-! ### setRspValid -/

section
variable (s : State) (v : Bool)

@[simp] theorem setRspValid_sess : (s.setRspValid v).sess = s.sess := rfl
@[simp] theorem setRspValid_h : (s.setRspValid v).h = s.h := rfl
@[simp] theorem setRspValid_bitlen : (s.setRspValid v).bitlen = s.bitlen := rfl
@[simp] theorem setRspValid_buf : (s.setRspValid v).buf = s.buf := rfl
@[simp] theorem setRspValid_fill : (s.setRspValid v).fill = s.fill := rfl
@[simp] theorem setRspValid_w : (s.setRspValid v).w = s.w := rfl
@[simp] theorem setRspValid_wv : (s.setRspValid v).wv = s.wv := rfl
@[simp] theorem setRspValid_t1 : (s.setRspValid v).t1 = s.t1 := rfl
@[simp] theorem setRspValid_t2 : (s.setRspValid v).t2 = s.t2 := rfl
@[simp] theorem setRspValid_rcode : (s.setRspValid v).rcode = s.rcode := rfl
@[simp] theorem setRspValid_rdata : (s.setRspValid v).rdata = s.rdata := rfl
@[simp] theorem setRspValid_rspValid : (s.setRspValid v).rspValid = v := rfl
@[simp] theorem setRspValid_inputs : (s.setRspValid v).inputs = s.inputs := rfl
@[simp] theorem setRspValid_refused : (s.setRspValid v).refused = s.refused := rfl
@[simp] theorem setRspValid_freeCtr : (s.setRspValid v).freeCtr = s.freeCtr := rfl
@[simp] theorem setRspValid_engine : (s.setRspValid v).engine = s.engine := rfl

end

/-! ### markRefused -/

section
variable (s : State)

@[simp] theorem markRefused_sess : (s.markRefused).sess = s.sess := rfl
@[simp] theorem markRefused_h : (s.markRefused).h = s.h := rfl
@[simp] theorem markRefused_bitlen : (s.markRefused).bitlen = s.bitlen := rfl
@[simp] theorem markRefused_buf : (s.markRefused).buf = s.buf := rfl
@[simp] theorem markRefused_fill : (s.markRefused).fill = s.fill := rfl
@[simp] theorem markRefused_w : (s.markRefused).w = s.w := rfl
@[simp] theorem markRefused_wv : (s.markRefused).wv = s.wv := rfl
@[simp] theorem markRefused_t1 : (s.markRefused).t1 = s.t1 := rfl
@[simp] theorem markRefused_t2 : (s.markRefused).t2 = s.t2 := rfl
@[simp] theorem markRefused_rcode : (s.markRefused).rcode = s.rcode := rfl
@[simp] theorem markRefused_rdata : (s.markRefused).rdata = s.rdata := rfl
@[simp] theorem markRefused_rspValid : (s.markRefused).rspValid = s.rspValid := rfl
@[simp] theorem markRefused_inputs : (s.markRefused).inputs = s.inputs := rfl
@[simp] theorem markRefused_refused : (s.markRefused).refused = true := rfl
@[simp] theorem markRefused_freeCtr : (s.markRefused).freeCtr = s.freeCtr := rfl
@[simp] theorem markRefused_engine : (s.markRefused).engine = s.engine := rfl

end

/-! ### offer -/

section
variable (s : State) (p : PortInput)

@[simp] theorem offer_sess : (s.offer p).sess = s.sess := rfl
@[simp] theorem offer_h : (s.offer p).h = s.h := rfl
@[simp] theorem offer_bitlen : (s.offer p).bitlen = s.bitlen := rfl
@[simp] theorem offer_buf : (s.offer p).buf = s.buf := rfl
@[simp] theorem offer_fill : (s.offer p).fill = s.fill := rfl
@[simp] theorem offer_w : (s.offer p).w = s.w := rfl
@[simp] theorem offer_wv : (s.offer p).wv = s.wv := rfl
@[simp] theorem offer_t1 : (s.offer p).t1 = s.t1 := rfl
@[simp] theorem offer_t2 : (s.offer p).t2 = s.t2 := rfl
@[simp] theorem offer_rcode : (s.offer p).rcode = s.rcode := rfl
@[simp] theorem offer_rdata : (s.offer p).rdata = s.rdata := rfl
@[simp] theorem offer_rspValid : (s.offer p).rspValid = false := rfl
@[simp] theorem offer_inputs : (s.offer p).inputs = p :: s.inputs := rfl
@[simp] theorem offer_refused : (s.offer p).refused = s.refused := rfl
@[simp] theorem offer_freeCtr : (s.offer p).freeCtr = s.freeCtr := rfl
@[simp] theorem offer_engine : (s.offer p).engine = s.engine := rfl

end

/-! ### powerOnReset -/

section
variable (s : State)

@[simp] theorem powerOnReset_sess : (s.powerOnReset).sess = .idle := rfl
@[simp] theorem powerOnReset_h : (s.powerOnReset).h = Vector.ofFn fun i => Config.freeHash s.engine s.freeCtr i.val := rfl
@[simp] theorem powerOnReset_bitlen : (s.powerOnReset).bitlen = Config.freeBitlen s.engine s.freeCtr := rfl
@[simp] theorem powerOnReset_buf : (s.powerOnReset).buf = Vector.ofFn fun j => Config.freeBuf s.engine s.freeCtr j.val := rfl
@[simp] theorem powerOnReset_fill : (s.powerOnReset).fill = Config.freeFill s.engine s.freeCtr := rfl
@[simp] theorem powerOnReset_w : (s.powerOnReset).w = Vector.ofFn fun i => Config.freeSchedule s.engine s.freeCtr i.val := rfl
@[simp] theorem powerOnReset_wv : (s.powerOnReset).wv = freeWorkVars s.engine s.freeCtr := rfl
@[simp] theorem powerOnReset_t1 : (s.powerOnReset).t1 = Config.freeT1 s.engine s.freeCtr := rfl
@[simp] theorem powerOnReset_t2 : (s.powerOnReset).t2 = Config.freeT2 s.engine s.freeCtr := rfl
@[simp] theorem powerOnReset_rcode : (s.powerOnReset).rcode = rcodeOfBits (Config.freeRcode s.engine s.freeCtr) := rfl
@[simp] theorem powerOnReset_rdata : (s.powerOnReset).rdata = Config.freeRdata s.engine s.freeCtr := rfl
@[simp] theorem powerOnReset_rspValid : (s.powerOnReset).rspValid = false := rfl
@[simp] theorem powerOnReset_inputs : (s.powerOnReset).inputs = s.inputs := rfl
@[simp] theorem powerOnReset_refused : (s.powerOnReset).refused = s.refused := rfl
@[simp] theorem powerOnReset_freeCtr : (s.powerOnReset).freeCtr = s.freeCtr + 1 := rfl
@[simp] theorem powerOnReset_engine : (s.powerOnReset).engine = s.engine := rfl

end

end Sys2Proof.Machine.State
end

