-- ==== Sys2Proof/Laws/Ops.lean ====
section
/-! SUPPORT. What the shared operations do, said once: guards, the block buffer, the finalizer. -/

namespace Sys2Proof.Machine

/-! ### The session guard -/

theorem ifAllowed_of_allowed {i : Instr} {s : State} {o : Host.Outcome State Fault Refusal}
    (h : allowed i s.sess = true) : ifAllowed i s o = o := by
  simp [ifAllowed, h]

theorem ifAllowed_of_not_allowed {i : Instr} {s : State} {o : Host.Outcome State Fault Refusal}
    (h : allowed i s.sess = false) : ifAllowed i s o = .next (s.respond (reject s.sess) 0) := by
  simp [ifAllowed, h]

/-- Everything a guarded command can answer. -/
theorem ifAllowed_cases (i : Instr) (s : State) (o : Host.Outcome State Fault Refusal) :
    (allowed i s.sess = true ∧ ifAllowed i s o = o) ∨
      (allowed i s.sess = false ∧ ifAllowed i s o = .next (s.respond (reject s.sess) 0)) := by
  cases h : allowed i s.sess
  · exact .inr ⟨rfl, ifAllowed_of_not_allowed h⟩
  · exact .inl ⟨rfl, ifAllowed_of_allowed h⟩

namespace State

/-! ### AbsorbByte -/

section
variable (s : State) (x : Byte)

/-- Everything AbsorbByte can do (44_streaming R109). -/
theorem absorbByte_cases :
    ((s.pushByte x).fill = 64 ∧
        s.absorbByte x = ((s.pushByte x).compress (s.pushByte x).buf).emptyBuffer) ∨
      ((s.pushByte x).fill ≠ 64 ∧ s.absorbByte x = s.pushByte x) := by
  by_cases h : (s.pushByte x).fill = 64
  · exact .inl ⟨h, if_pos h⟩
  · exact .inr ⟨h, if_neg h⟩

@[simp] theorem absorbByte_sess : (s.absorbByte x).sess = s.sess := by
  rcases s.absorbByte_cases x with ⟨-, h⟩ | ⟨-, h⟩ <;> simp [h]

@[simp] theorem absorbByte_bitlen : (s.absorbByte x).bitlen = s.bitlen + 8 := by
  rcases s.absorbByte_cases x with ⟨-, h⟩ | ⟨-, h⟩ <;> simp [h]

@[simp] theorem absorbByte_buf :
    (s.absorbByte x).buf = s.buf.setIfInBounds s.fill.toNat x := by
  rcases s.absorbByte_cases x with ⟨-, h⟩ | ⟨-, h⟩ <;> simp [h]

@[simp] theorem absorbByte_rcode : (s.absorbByte x).rcode = s.rcode := by
  rcases s.absorbByte_cases x with ⟨-, h⟩ | ⟨-, h⟩ <;> simp [h]

@[simp] theorem absorbByte_rdata : (s.absorbByte x).rdata = s.rdata := by
  rcases s.absorbByte_cases x with ⟨-, h⟩ | ⟨-, h⟩ <;> simp [h]

@[simp] theorem absorbByte_rspValid : (s.absorbByte x).rspValid = s.rspValid := by
  rcases s.absorbByte_cases x with ⟨-, h⟩ | ⟨-, h⟩ <;> simp [h]

@[simp] theorem absorbByte_inputs : (s.absorbByte x).inputs = s.inputs := by
  rcases s.absorbByte_cases x with ⟨-, h⟩ | ⟨-, h⟩ <;> simp [h]

@[simp] theorem absorbByte_refused : (s.absorbByte x).refused = s.refused := by
  rcases s.absorbByte_cases x with ⟨-, h⟩ | ⟨-, h⟩ <;> simp [h]

@[simp] theorem absorbByte_freeCtr : (s.absorbByte x).freeCtr = s.freeCtr := by
  rcases s.absorbByte_cases x with ⟨-, h⟩ | ⟨-, h⟩ <;> simp [h]

@[simp] theorem absorbByte_engine : (s.absorbByte x).engine = s.engine := by
  rcases s.absorbByte_cases x with ⟨-, h⟩ | ⟨-, h⟩ <;> simp [h]

/-- A pushed byte fills the buffer exactly when it is byte 63. -/
theorem pushByte_fill_eq_64 : (s.pushByte x).fill = 64 ↔ s.fill.toNat = 63 := by
  rw [pushByte_fill]
  constructor
  · intro h; have := congrArg BitVec.toNat h; simp at this; omega
  · intro h; apply BitVec.eq_of_toNat_eq; simp [h]

/-- FILL counts modulo 64 (10_state R19). -/
theorem absorbByte_fill (hf : s.fill.toNat ≤ 63) :
    (s.absorbByte x).fill.toNat = (s.fill.toNat + 1) % 64 := by
  rcases s.absorbByte_cases x with ⟨h64, h⟩ | ⟨h64, h⟩ <;>
    simp only [ne_eq, pushByte_fill_eq_64] at h64 <;> simp [h] <;> omega

/-- `H` changes exactly when the block completes. -/
theorem absorbByte_h :
    (s.absorbByte x).h =
      if s.fill.toNat = 63 then compressH s.h (s.buf.setIfInBounds 63 x) else s.h := by
  rcases s.absorbByte_cases x with ⟨h64, h⟩ | ⟨h64, h⟩ <;>
    simp only [ne_eq, pushByte_fill_eq_64] at h64 <;> simp [h, h64]

end

/-! ### The bytes of one DATA -/

section
variable (s : State) (xs : List Byte)

@[simp] theorem absorbBytes_nil : s.absorbBytes [] = s := rfl

@[simp] theorem absorbBytes_cons (x : Byte) :
    s.absorbBytes (x :: xs) = (s.absorbByte x).absorbBytes xs := rfl

theorem absorbBytes_append (ys : List Byte) :
    s.absorbBytes (xs ++ ys) = (s.absorbBytes xs).absorbBytes ys := List.foldl_append

@[simp] theorem absorbBytes_sess : (s.absorbBytes xs).sess = s.sess := by
  induction xs generalizing s <;> simp_all

@[simp] theorem absorbBytes_rcode : (s.absorbBytes xs).rcode = s.rcode := by
  induction xs generalizing s <;> simp_all

@[simp] theorem absorbBytes_rdata : (s.absorbBytes xs).rdata = s.rdata := by
  induction xs generalizing s <;> simp_all

@[simp] theorem absorbBytes_rspValid : (s.absorbBytes xs).rspValid = s.rspValid := by
  induction xs generalizing s <;> simp_all

@[simp] theorem absorbBytes_inputs : (s.absorbBytes xs).inputs = s.inputs := by
  induction xs generalizing s <;> simp_all

@[simp] theorem absorbBytes_refused : (s.absorbBytes xs).refused = s.refused := by
  induction xs generalizing s <;> simp_all

@[simp] theorem absorbBytes_freeCtr : (s.absorbBytes xs).freeCtr = s.freeCtr := by
  induction xs generalizing s <;> simp_all

@[simp] theorem absorbBytes_engine : (s.absorbBytes xs).engine = s.engine := by
  induction xs generalizing s <;> simp_all

theorem absorbBytes_bitlen :
    (s.absorbBytes xs).bitlen = s.bitlen + BitVec.ofNat 64 (8 * xs.length) := by
  induction xs generalizing s with
  | nil => simp
  | cons x xs ih =>
    rw [absorbBytes_cons, ih, absorbByte_bitlen, BitVec.add_assoc, List.length_cons]
    congr 1
    apply BitVec.eq_of_toNat_eq
    simp [BitVec.toNat_add]
    omega

theorem absorbBytes_fill (hf : s.fill.toNat ≤ 63) :
    (s.absorbBytes xs).fill.toNat = (s.fill.toNat + xs.length) % 64 := by
  induction xs generalizing s with
  | nil => simp; omega
  | cons x xs ih =>
    have h1 := s.absorbByte_fill x hf
    rw [absorbBytes_cons, ih _ (by omega), h1, List.length_cons]
    omega

end

/-! ### The finalizer -/

section
variable (s : State) (blks : List Block)

@[simp] theorem foldl_compress_h : (blks.foldl compress s).h = blks.foldl compressH s.h := by
  induction blks generalizing s <;> simp_all

@[simp] theorem foldl_compress_sess : (blks.foldl compress s).sess = s.sess := by
  induction blks generalizing s <;> simp_all

@[simp] theorem foldl_compress_rspValid : (blks.foldl compress s).rspValid = s.rspValid := by
  induction blks generalizing s <;> simp_all

@[simp] theorem foldl_compress_inputs : (blks.foldl compress s).inputs = s.inputs := by
  induction blks generalizing s <;> simp_all

@[simp] theorem foldl_compress_refused : (blks.foldl compress s).refused = s.refused := by
  induction blks generalizing s <;> simp_all

@[simp] theorem foldl_compress_freeCtr : (blks.foldl compress s).freeCtr = s.freeCtr := by
  induction blks generalizing s <;> simp_all

@[simp] theorem foldl_compress_engine : (blks.foldl compress s).engine = s.engine := by
  induction blks generalizing s <;> simp_all

/-- What the finalizer makes of `H` (43_padding R100). -/
@[simp] theorem finalize_h : s.finalize.h = (pad s.pending s.bitlen).foldl compressH s.h :=
  foldl_compress_h _ _

@[simp] theorem finalize_sess : s.finalize.sess = s.sess := foldl_compress_sess _ _

@[simp] theorem finalize_rspValid : s.finalize.rspValid = s.rspValid := foldl_compress_rspValid _ _

@[simp] theorem finalize_inputs : s.finalize.inputs = s.inputs := foldl_compress_inputs _ _

@[simp] theorem finalize_refused : s.finalize.refused = s.refused := foldl_compress_refused _ _

@[simp] theorem finalize_freeCtr : s.finalize.freeCtr = s.freeCtr := foldl_compress_freeCtr _ _

@[simp] theorem finalize_engine : s.finalize.engine = s.engine := foldl_compress_engine _ _

end

end State

end Sys2Proof.Machine
end

