-- ==== Sys2Proof/Laws/Absorb.lean ====
section
/-! SUPPORT. The buffer and the hash of an open session, as functions of the bytes absorbed: the
relation that AbsorbByte keeps (44_streaming R109). -/

namespace Sys2Proof.Machine

/-! ### The reference function, one byte longer -/

theorem length_tailBytes (b : List Byte) : (tailBytes b).length = b.length % 64 := by
  simp [tailBytes]; omega

theorem blockAt_append (b c : List Byte) {k : Nat} (hk : k < b.length / 64) :
    blockAt (b ++ c) k = blockAt b k := by
  unfold blockAt
  congr 1
  rw [List.drop_append_of_le_length (by omega), List.take_append_of_le_length (by simp; omega)]

theorem hashOfBlocks_append (b c : List Byte) (h : (b ++ c).length / 64 = b.length / 64) :
    hashOfBlocks (b ++ c) = hashOfBlocks b := by
  unfold hashOfBlocks
  rw [h]
  refine List.foldl_ext _ _ _ fun a k hk => ?_
  rw [blockAt_append b c (List.mem_range.mp hk)]

theorem tailBytes_append (b c : List Byte) (h : (b ++ c).length / 64 = b.length / 64) :
    tailBytes (b ++ c) = tailBytes b ++ c := by
  unfold tailBytes
  rw [h, List.drop_append_of_le_length (by omega)]

/-- The byte that completes a block: `H` is compressed with it and nothing is left over. -/
theorem hashOfBlocks_complete (b : List Byte) (x : Byte) (h : b.length % 64 = 63) :
    hashOfBlocks (b ++ [x]) = compressH (hashOfBlocks b) (blockOfBytes (tailBytes b ++ [x])) ∧
      tailBytes (b ++ [x]) = [] := by
  have hl : (b ++ [x]).length / 64 = b.length / 64 + 1 := by simp; omega
  constructor
  · have hblk : blockAt (b ++ [x]) (b.length / 64) = blockOfBytes (tailBytes b ++ [x]) := by
      unfold blockAt tailBytes
      rw [List.drop_append_of_le_length (by omega), List.take_of_length_le (by simp; omega)]
    unfold hashOfBlocks
    rw [hl, List.range_succ, List.foldl_append, List.foldl_cons, List.foldl_nil, hblk]
    refine congrArg (compressH · _) (List.foldl_ext _ _ _ fun a k hk => ?_)
    rw [blockAt_append b _ (List.mem_range.mp hk)]
  · unfold tailBytes
    rw [hl]
    exact List.drop_of_length_le (by simp; omega)

/-! ### Pending bytes -/

theorem State.length_pending (s : State) (hf : s.fill.toNat ≤ 63) :
    s.pending.length = s.fill.toNat := by
  simp [State.pending]; omega

/-- A pushed byte is appended to the pending bytes. -/
theorem State.take_pushByte (s : State) (x : Byte) (hf : s.fill.toNat ≤ 63) :
    (s.pushByte x).buf.toList.take (s.fill.toNat + 1) = s.pending ++ [x] := by
  apply List.ext_getElem
  · simp [State.pending]; omega
  · intro j h1 h2
    simp at h1
    by_cases hj : j = s.fill.toNat
    · subst hj
      simp [State.pending, Vector.setIfInBounds]
    · have : j < s.fill.toNat := by omega
      have hm : j < min s.fill.toNat 64 := by omega
      simp [State.pending, hm, Ne.symm hj]

theorem blockOfBytes_toList (v : Block) : blockOfBytes v.toList = v := by
  ext j hj
  simp [blockOfBytes]

/-! ### The relation -/

/-- The session of `s` has absorbed exactly the bytes `b` (44_streaming R108, R119; 43_padding R95). -/
structure State.HasAbsorbed (s : State) (b : List Byte) : Prop where
  h : s.h = hashOfBlocks b
  fill : s.fill.toNat = b.length % 64
  pending : s.pending = tailBytes b
  bitlen : s.bitlen = BitVec.ofNat 64 (8 * b.length)

theorem State.hasAbsorbed_beginSession (s : State) : s.beginSession.HasAbsorbed [] where
  h := rfl
  fill := rfl
  pending := by simp [State.pending, tailBytes]
  bitlen := rfl

/-- AbsorbByte keeps the relation (44_streaming R109). -/
theorem State.HasAbsorbed.absorbByte {s : State} {b : List Byte} (hs : s.HasAbsorbed b) (x : Byte) :
    (s.absorbByte x).HasAbsorbed (b ++ [x]) := by
  have hf : s.fill.toNat ≤ 63 := by have := hs.fill; omega
  have hfill := s.absorbByte_fill x hf
  have htake := s.take_pushByte x hf
  have hbit : (s.absorbByte x).bitlen = BitVec.ofNat 64 (8 * (b ++ [x]).length) := by
    rw [absorbByte_bitlen, hs.bitlen]
    apply BitVec.eq_of_toNat_eq
    simp [BitVec.toNat_add]
    omega
  have hfill' : (s.absorbByte x).fill.toNat = (b ++ [x]).length % 64 := by
    rw [hfill, hs.fill]; simp
  by_cases h63 : s.fill.toNat = 63
  · have hb : b.length % 64 = 63 := by rw [← hs.fill]; exact h63
    obtain ⟨hH, hT⟩ := hashOfBlocks_complete b x hb
    refine ⟨?_, hfill', ?_, hbit⟩
    · rw [absorbByte_h, if_pos h63, hs.h, hH, ← hs.pending, ← htake, h63,
        List.take_of_length_le (by simp), blockOfBytes_toList, pushByte_buf, h63]
    · rw [hT, State.pending, hfill, h63]; rfl
  · have hl : (b ++ [x]).length / 64 = b.length / 64 := by have := hs.fill; simp; omega
    refine ⟨?_, hfill', ?_, hbit⟩
    · rw [absorbByte_h, if_neg h63, hs.h, hashOfBlocks_append b [x] hl]
    · rw [tailBytes_append b [x] hl, ← hs.pending, ← htake, State.pending, hfill, absorbByte_buf,
        pushByte_buf, Nat.mod_eq_of_lt (by omega)]

/-- The bytes of a DATA keep it too (44_streaming R108). -/
theorem State.HasAbsorbed.absorbBytes {s : State} {b : List Byte} (hs : s.HasAbsorbed b)
    (xs : List Byte) : (s.absorbBytes xs).HasAbsorbed (b ++ xs) := by
  induction xs generalizing s b with
  | nil => simpa using hs
  | cons x xs ih => simpa using ih (hs.absorbByte x)

end Sys2Proof.Machine
end

