-- ==== Sys2Proof/Laws/Encoding.lean ====
section
/-! SUPPORT. The payload lanes carry every payload whole (30_encoding R56). -/

namespace Sys2Proof

/-- The bus of a list of bytes: bit `i` belongs to byte `i / 8`, counted from the last. -/
theorem getLsbD_foldl_bus (l : List Byte) (acc : BitVec 512) (hl : 8 * l.length ≤ 512) (i : Nat)
    (hi : i < 8 * l.length) :
    (l.foldl (fun (acc : BitVec 512) (b : Byte) => (acc <<< 8) ||| b.setWidth 512) acc).getLsbD i =
      (l.getD (l.length - 1 - i / 8) 0).getLsbD (i % 8) := by
  induction l generalizing acc with
  | nil => simp at hi
  | cons b l ih =>
    simp only [List.length_cons] at hl hi
    rw [List.foldl_cons]
    by_cases h : i < 8 * l.length
    · rw [ih _ (by omega) h]
      have : l.length + 1 - 1 - i / 8 = (l.length - 1 - i / 8) + 1 := by omega
      rw [List.length_cons, this, List.getD_cons_succ]
    · have aux : ∀ (l : List Byte) (acc : BitVec 512) (i : Nat), 8 * l.length ≤ i → i < 512 →
          (l.foldl (fun (acc : BitVec 512) (b : Byte) => (acc <<< 8) ||| b.setWidth 512) acc).getLsbD i =
            acc.getLsbD (i - 8 * l.length) := by
        intro l
        induction l with
        | nil => intros; simp
        | cons c l ihl =>
          intro acc i h1 h2
          simp only [List.length_cons] at h1
          rw [List.foldl_cons, ihl _ _ (by omega) h2]
          have e1 : ¬ i - 8 * l.length < 8 := by omega
          have e2 : i - 8 * l.length < 512 := by omega
          have e3 : c.getLsbD (i - 8 * l.length) = false := BitVec.getLsbD_of_ge _ _ (by omega)
          have e4 : i - 8 * l.length - 8 = i - 8 * (l.length + 1) := by omega
          rw [BitVec.getLsbD_or, BitVec.getLsbD_setWidth, e3, BitVec.getLsbD_shiftLeft, e4]
          simp [e1, e2]
      rw [aux _ _ _ (by omega) (by omega)]
      have e0 : l.length + 1 - 1 - i / 8 = 0 := by omega
      have e2 : i - 8 * l.length = i % 8 := by omega
      have e3 : i % 8 < 512 := by omega
      have e4 : i % 8 < 8 := by omega
      rw [List.length_cons, e0, List.getD_cons_zero, e2, BitVec.getLsbD_or,
        BitVec.getLsbD_setWidth, BitVec.getLsbD_shiftLeft]
      simp [e3, e4]

/-- The lanes of the bus of a payload are the payload (30_encoding R56). -/
theorem payloadOfBus_busOfPayload (p : Block) : payloadOfBus (busOfPayload p) = p := by
  apply Vector.ext
  intro j hj
  apply BitVec.eq_of_getLsbD_eq
  intro k hk
  have h := getLsbD_foldl_bus p.toList 0 (by simp) (504 - 8 * j + k) (by simp; omega)
  have e1 : 63 - (504 - 8 * j + k) / 8 = j := by omega
  have e2 : (504 - 8 * j + k) % 8 = k := by omega
  rw [Vector.length_toList, e1, e2] at h
  simp only [payloadOfBus, Vector.getElem_ofFn, BitVec.getLsbD_extractLsb', hk, decide_true,
    Bool.true_and, busOfPayload, h]
  simp [hj]

end Sys2Proof
end

