-- ==== Sys2Proof/Laws/Exec.lean ====
section
/-! SUPPORT. Everything a command can answer, and everything a step can do: one inversion lemma each. -/

namespace Sys2Proof.Machine

/-- A well-formed command that the session does not allow changes nothing but the response
(44_streaming R106). -/
theorem exec_of_not_allowed {i : Instr} {s : State} (hw : i.wellFormed = true)
    (ha : allowed i s.sess = false) : exec i s = .next (s.respond (reject s.sess) 0) := by
  cases i with
  | data n p =>
    have hn : lenInRange n = true := hw
    simp only [exec, execData, hn, if_true]
    exact ifAllowed_of_not_allowed ha
  | init => exact ifAllowed_of_not_allowed ha
  | endCmd => exact ifAllowed_of_not_allowed ha
  | fail => exact ifAllowed_of_not_allowed ha
  | rddig k => exact ifAllowed_of_not_allowed ha
  | rdstat => exact ifAllowed_of_not_allowed ha

/-- Everything `exec` can answer with a next state. -/
theorem exec_next_cases {i : Instr} {s t : State} (h : exec i s = .next t) :
    (i = .init ∧ t = s.beginSession.respond .ok 0) ∨
    (∃ n p, i = .data n p ∧ lenInRange n = false ∧ t = s.respondIllegal) ∨
    (∃ n p, i = .data n p ∧ lenInRange n = true ∧ s.sess = .absorb ∧
      lengthAdmitted s.bitlen n = true ∧ fillInRange s.fill = true ∧
      t = (s.absorbBytes (dataBytes n p)).respond .ok 0) ∨
    (i = .endCmd ∧ s.sess = .absorb ∧ fillInRange s.fill = true ∧
      t = (s.finalize.openAfterEnd.setSess .done).respond .ok 0) ∨
    (i = .fail ∧ s.sess = .absorb ∧ t = (s.discardData.setSess .failed).respond .ioerr 0) ∨
    (∃ k, i = .rddig k ∧ s.sess = .done ∧ t = s.respond .ok (digestWord s.h k)) ∨
    (i = .rdstat ∧ t = s.respond .ok (statusWord s.sess s.fill)) ∨
    (i.wellFormed = true ∧ allowed i s.sess = false ∧ t = s.respond (reject s.sess) 0) := by
  cases i with
  | init => exact .inl ⟨rfl, by simpa [exec, execInit, ifAllowed, allowed] using h.symm⟩
  | rdstat => simp_all [exec, execRdstat, ifAllowed, allowed, Instr.wellFormed]
  | data n p =>
    simp only [exec, execData] at h
    cases hn : lenInRange n
    · simp_all [Instr.wellFormed]
    · rcases ifAllowed_cases (.data n p) s _ with ⟨ha, e⟩ | ⟨ha, e⟩ <;> rw [hn, if_pos rfl, e] at h
      · have hs : s.sess = .absorb := by simpa [allowed] using ha
        cases hl : lengthAdmitted s.bitlen n <;> cases hf : fillInRange s.fill <;> simp_all
      · simp_all [Instr.wellFormed]
  | endCmd =>
    rcases ifAllowed_cases .endCmd s _ with ⟨ha, e⟩ | ⟨ha, e⟩ <;> rw [exec, execEndCmd, e] at h
    · have hs : s.sess = .absorb := by simpa [allowed] using ha
      cases hf : fillInRange s.fill <;> simp_all
    · simp_all [Instr.wellFormed]
  | fail =>
    rcases ifAllowed_cases .fail s _ with ⟨ha, e⟩ | ⟨ha, e⟩ <;> rw [exec, execFail, e] at h
    · have hs : s.sess = .absorb := by simpa [allowed] using ha
      simp_all
    · simp_all [Instr.wellFormed]
  | rddig k =>
    rcases ifAllowed_cases (.rddig k) s _ with ⟨ha, e⟩ | ⟨ha, e⟩ <;> rw [exec, execRddig, e] at h
    · have hs : s.sess = .done := by simpa [allowed] using ha
      simp_all
    · simp_all [Instr.wellFormed]

/-- The only refusal is the length bound of DATA (44_streaming R117). -/
theorem exec_refused_cases {i : Instr} {s : State} {r : Refusal} (h : exec i s = .refused r) :
    ∃ n p, i = .data n p ∧ r = .lengthOverflow ∧ lenInRange n = true ∧ s.sess = .absorb ∧
      lengthAdmitted s.bitlen n = false := by
  cases i with
  | init => simp [exec, execInit, ifAllowed, allowed] at h
  | rdstat => simp [exec, execRdstat, ifAllowed, allowed] at h
  | data n p =>
    simp only [exec, execData] at h
    cases hn : lenInRange n
    · simp_all
    · rcases ifAllowed_cases (.data n p) s _ with ⟨ha, e⟩ | ⟨ha, e⟩ <;> rw [hn, if_pos rfl, e] at h
      · have hs : s.sess = .absorb := by simpa [allowed] using ha
        cases hl : lengthAdmitted s.bitlen n <;> cases hf : fillInRange s.fill <;> simp_all
      · simp_all
  | endCmd =>
    rcases ifAllowed_cases .endCmd s _ with ⟨ha, e⟩ | ⟨ha, e⟩ <;> rw [exec, execEndCmd, e] at h
    · have hs : s.sess = .absorb := by simpa [allowed] using ha
      cases hf : fillInRange s.fill <;> simp_all
    · simp_all
  | fail =>
    rcases ifAllowed_cases .fail s _ with ⟨ha, e⟩ | ⟨ha, e⟩ <;> rw [exec, execFail, e] at h <;>
      simp_all
  | rddig k =>
    rcases ifAllowed_cases (.rddig k) s _ with ⟨ha, e⟩ | ⟨ha, e⟩ <;> rw [exec, execRddig, e] at h <;>
      simp_all

/-- The only fault is a `FILL` above 63 in an open session. -/
theorem exec_fault_cases {i : Instr} {s : State} {r : Fault} (h : exec i s = .fault r) :
    s.sess = .absorb ∧ fillInRange s.fill = false := by
  cases i with
  | init => simp [exec, execInit, ifAllowed, allowed] at h
  | rdstat => simp [exec, execRdstat, ifAllowed, allowed] at h
  | data n p =>
    simp only [exec, execData] at h
    cases hn : lenInRange n
    · simp_all
    · rcases ifAllowed_cases (.data n p) s _ with ⟨ha, e⟩ | ⟨ha, e⟩ <;> rw [hn, if_pos rfl, e] at h
      · have hs : s.sess = .absorb := by simpa [allowed] using ha
        cases hl : lengthAdmitted s.bitlen n <;> cases hf : fillInRange s.fill <;> simp_all
      · simp_all
  | endCmd =>
    rcases ifAllowed_cases .endCmd s _ with ⟨ha, e⟩ | ⟨ha, e⟩ <;> rw [exec, execEndCmd, e] at h
    · have hs : s.sess = .absorb := by simpa [allowed] using ha
      cases hf : fillInRange s.fill <;> simp_all
    · simp_all
  | fail =>
    rcases ifAllowed_cases .fail s _ with ⟨ha, e⟩ | ⟨ha, e⟩ <;> rw [exec, execFail, e] at h <;>
      simp_all
  | rddig k =>
    rcases ifAllowed_cases (.rddig k) s _ with ⟨ha, e⟩ | ⟨ha, e⟩ <;> rw [exec, execRddig, e] at h <;>
      simp_all

/-- Everything a command transaction can answer with a next state. -/
theorem finishCommand_next_cases {b : Bool} {s t : State} {o : Host.Outcome State Fault Refusal}
    (h : finishCommand b s o = .next t) :
    (∃ u, o = .next u ∧ t = u.setRspValid (!b)) ∨
      (o = .refused .lengthOverflow ∧ t = s.markRefused) := by
  unfold finishCommand at h
  split at h <;> simp_all

/-- Everything a step can do. -/
theorem step_next_cases {s t : State} (h : step s = .next t) :
    (s.inputs = [] ∧ t = s) ∨
    ∃ p rest, s.inputs = p :: rest ∧
      ((p.rst = true ∧ t = (s.setInputs rest).powerOnReset) ∨
       (p.rst = false ∧ s.rspValid = true ∧ p.rspReady = true ∧
          t = (s.setInputs rest).setRspValid false) ∨
       (p.rst = false ∧ s.rspValid = true ∧ p.rspReady = false ∧ t = s.setInputs rest) ∨
       (p.rst = false ∧ s.rspValid = false ∧ p.cmdValid = false ∧ t = s.setInputs rest) ∨
       (p.rst = false ∧ s.rspValid = false ∧ p.cmdValid = true ∧
          ((∃ u, perform p.cmdWord p.cmdPayload (s.setInputs rest) = .next u ∧
              t = u.setRspValid (!p.rspReady)) ∨
           (perform p.cmdWord p.cmdPayload (s.setInputs rest) = .refused .lengthOverflow ∧
              t = (s.setInputs rest).markRefused)))) := by
  unfold step portStep nextEvent at h
  cases hs : s.inputs with
  | nil => simp_all
  | cons p rest =>
    refine .inr ⟨p, rest, rfl, ?_⟩
    simp only [hs] at h
    cases hr : p.rst <;> simp only [hr, Bool.false_eq_true, if_true, if_false] at h
    · cases hv : s.rspValid <;> simp only [hv, Bool.false_eq_true, if_true, if_false] at h
      · cases hc : p.cmdValid <;> simp only [hc, Bool.false_eq_true, if_true, if_false] at h
        · simp_all
        · have := finishCommand_next_cases h
          simp_all
      · cases hq : p.rspReady <;> simp_all
    · simp_all

/-! ### The engine's number -/

/-- No command changes which engine this is. -/
theorem exec_engine {i : Instr} {s t : State} (h : exec i s = .next t) : t.engine = s.engine := by
  rcases exec_next_cases h with ⟨-, rfl⟩ | ⟨n, p, -, -, rfl⟩ | ⟨n, p, -, -, -, -, -, rfl⟩ |
    ⟨-, -, -, rfl⟩ | ⟨-, -, rfl⟩ | ⟨k, -, -, rfl⟩ | ⟨-, rfl⟩ | ⟨-, -, rfl⟩ <;>
    simp [State.respondIllegal]

/-- Nor does an accepted word, legal or not. -/
theorem perform_engine {w : BitVec 32} {bus : BitVec 512} {s t : State}
    (h : perform w bus s = .next t) : t.engine = s.engine := by
  unfold perform at h
  split at h
  · exact exec_engine h
  · cases h; simp [State.respondIllegal]

/-- No step changes which engine this is, so the free values of two engines keep apart. -/
theorem step_engine {s t : State} (h : step s = .next t) : t.engine = s.engine := by
  rcases step_next_cases h with ⟨-, rfl⟩ | ⟨p, rest, -, ⟨-, rfl⟩ | ⟨-, -, -, rfl⟩ | ⟨-, -, -, rfl⟩ |
    ⟨-, -, -, rfl⟩ | ⟨-, -, -, ⟨u, hu, rfl⟩ | ⟨-, rfl⟩⟩⟩
  · rfl
  · simp
  · simp
  · simp
  · simp
  · simp [perform_engine hu]
  · simp

/-! ### Runs -/

/-- A run goes on from the next state of its first step. -/
theorem run_succ {s t : State} (h : step s = .next t) (k : Nat) :
    Host.Core.run Sys2Proof.core (k + 1) s = Host.Core.run Sys2Proof.core k t := by
  have h' : Sys2Proof.core.step s = .next t := h
  simp only [Host.Core.run, h']

@[simp] theorem run_zero (s : State) : Host.Core.run Sys2Proof.core 0 s = .next s := rfl

/-- The step at a sample that offers a command the engine can accept (30_encoding R52). -/
theorem step_of_accepted {s : State} {p : PortInput} {rest : List PortInput}
    (hi : s.inputs = p :: rest) (hr : p.rst = false) (hv : s.rspValid = false)
    (hc : p.cmdValid = true) :
    step s = finishCommand p.rspReady (s.setInputs rest)
      (perform p.cmdWord p.cmdPayload (s.setInputs rest)) := by
  simp [step, portStep, nextEvent, hi, hr, hv, hc]

end Sys2Proof.Machine
end

