-- ==== Sys2Proof/Laws/HostProgram.lean ====
section
/-! SUPPORT. Sequences of commands (20_memory R46; 30_encoding R66), and that a command does not look at
what the host is going to do. -/

namespace Sys2Proof.Machine

/-! ### runCommands -/

theorem runCommands_cons {i : Instr} {is : List Instr} {s t u : State} {rs : List (RCode × Word)}
    (h : exec i s = .next t) (h' : runCommands is t = .next (u, rs)) :
    runCommands (i :: is) s = .next (u, (t.rcode, t.rdata) :: rs) := by
  simp [runCommands, h, h']

/-- A sequence that goes on: its first command goes on, and so does the rest. -/
theorem runCommands_cons_next {i : Instr} {is : List Instr} {s u : State} {rs : List (RCode × Word)}
    (h : runCommands (i :: is) s = .next (u, rs)) :
    ∃ t rs', exec i s = .next t ∧ runCommands is t = .next (u, rs') ∧
      rs = (t.rcode, t.rdata) :: rs' := by
  rw [runCommands] at h
  cases he : exec i s with
  | next t =>
    rw [he] at h
    cases hr : runCommands is t with
    | next x =>
      simp only [hr, Host.Outcome.next.injEq, Prod.mk.injEq] at h
      exact ⟨t, x.2, rfl, by rw [hr, ← h.1], h.2.symm⟩
    | fault r => simp [hr] at h
    | refused r => simp [hr] at h
  | fault r => simp [he] at h
  | refused r => simp [he] at h

theorem runCommands_append {a b : List Instr} {s t u : State} {ra rb : List (RCode × Word)}
    (ha : runCommands a s = .next (t, ra)) (hb : runCommands b t = .next (u, rb)) :
    runCommands (a ++ b) s = .next (u, ra ++ rb) := by
  induction a generalizing s ra with
  | nil =>
    simp only [runCommands, Host.Outcome.next.injEq, Prod.mk.injEq] at ha
    obtain ⟨rfl, rfl⟩ := ha
    simpa using hb
  | cons i is ih =>
    obtain ⟨v, rs, h1, h2, rfl⟩ := runCommands_cons_next ha
    exact runCommands_cons h1 (ih h2)

/-! ### DATA commands of a host -/

theorem dataBytes_dataCommand (c : List Byte) (h : c.length ≤ 64) :
    dataBytes (BitVec.ofNat 7 c.length) (blockOfBytes c) = c := by
  apply List.ext_getElem
  · simp [dataBytes]; omega
  · intro j h1 h2
    simp [dataBytes, blockOfBytes, h2]

/-- A DATA of 1 to 64 bytes in an open session, within the bound, completes (44_streaming R108). -/
theorem exec_dataCommand {c : List Byte} {s : State} (h1 : 1 ≤ c.length) (h2 : c.length ≤ 64)
    (hs : s.sess = .absorb) (hl : s.bitlen.toNat + 8 * c.length ≤ 2 ^ 64 - 8)
    (hf : s.fill.toNat ≤ 63) :
    exec (dataCommand c) s = .next ((s.absorbBytes c).respond .ok 0) := by
  have hn : (BitVec.ofNat 7 c.length).toNat = c.length := by simp; omega
  have e1 : lenInRange (BitVec.ofNat 7 c.length) = true := by
    simp only [lenInRange, hn]; simp [h1, h2]
  have e2 : lengthAdmitted s.bitlen (BitVec.ofNat 7 c.length) = true := by
    simp only [lengthAdmitted, hn]; simpa using hl
  have e3 : fillInRange s.fill = true := by simpa [fillInRange] using hf
  simp only [dataCommand, exec, execData, e1, if_true, e2, e3, dataBytes_dataCommand c h2]
  exact ifAllowed_of_allowed (by simp [allowed, hs])

theorem State.HasAbsorbed.respond {s : State} {b : List Byte} (h : s.HasAbsorbed b) (c : RCode)
    (d : Word) : (s.respond c d).HasAbsorbed b := ⟨h.h, h.fill, h.pending, h.bitlen⟩

/-- DATA commands, one after the other, absorb the bytes of their pieces (44_streaming R108). -/
theorem runCommands_dataCommands {pieces : List (List Byte)} {b : List Byte} {s : State}
    (hp : ∀ c ∈ pieces, 1 ≤ c.length ∧ c.length ≤ 64) (hs : s.sess = .absorb)
    (ha : s.HasAbsorbed b) (hl : 8 * (b.length + pieces.flatten.length) < 2 ^ 64) :
    ∃ t, runCommands (dataCommands pieces) s = .next (t, pieces.map fun _ => (.ok, 0)) ∧
      t.sess = .absorb ∧ t.HasAbsorbed (b ++ pieces.flatten) := by
  induction pieces generalizing b s with
  | nil => exact ⟨s, rfl, hs, by simpa using ha⟩
  | cons c cs ih =>
    rw [List.flatten_cons, List.length_append] at hl
    obtain ⟨h1, h2⟩ := hp c (by simp)
    have hf : s.fill.toNat ≤ 63 := by have := ha.fill; omega
    have hb : s.bitlen.toNat = 8 * b.length := by
      rw [ha.bitlen, BitVec.toNat_ofNat, Nat.mod_eq_of_lt (by omega)]
    have he := exec_dataCommand h1 h2 hs (by omega) hf
    obtain ⟨t, e, g1, g2⟩ := ih (fun d hd => hp d (by simp [hd]))
      (s := (s.absorbBytes c).respond .ok 0) (by simpa using hs) ((ha.absorbBytes c).respond _ _)
      (by rw [List.length_append]; omega)
    exact ⟨t, runCommands_cons he e, g1, by simpa using g2⟩

/-! ### A command does not depend on the samples to come -/

/-- The outcome with `f` applied to its next state. -/
def mapNext (f : State → State) :
    Host.Outcome State Fault Refusal → Host.Outcome State Fault Refusal
  | .next t => .next (f t)
  | .fault r => .fault r
  | .refused r => .refused r

namespace State

section
variable (s : State) (rest : List PortInput)

theorem absorbByte_setInputs (x : Byte) :
    (s.setInputs rest).absorbByte x = (s.absorbByte x).setInputs rest := by
  unfold absorbByte
  split <;> rename_i h
  · rw [if_pos (by simpa using h)]; rfl
  · rw [if_neg (by simpa using h)]; rfl

theorem absorbBytes_setInputs (xs : List Byte) :
    (s.setInputs rest).absorbBytes xs = (s.absorbBytes xs).setInputs rest := by
  induction xs generalizing s with
  | nil => rfl
  | cons x xs ih => rw [absorbBytes_cons, absorbBytes_cons, absorbByte_setInputs, ih]

theorem foldl_compress_setInputs (blks : List Block) :
    blks.foldl compress (s.setInputs rest) = (blks.foldl compress s).setInputs rest := by
  induction blks generalizing s with
  | nil => rfl
  | cons b bs ih =>
    have : (s.setInputs rest).compress b = (s.compress b).setInputs rest := rfl
    rw [List.foldl_cons, List.foldl_cons, this, ih]

theorem finalize_setInputs : (s.setInputs rest).finalize = s.finalize.setInputs rest :=
  foldl_compress_setInputs s rest _

end

end State

/-- Exchanging the samples to come exchanges them in the answer, and nothing else. -/
theorem exec_setInputs (i : Instr) (s : State) (rest : List PortInput) :
    exec i (s.setInputs rest) = mapNext (fun t => t.setInputs rest) (exec i s) := by
  have guard : ∀ (j : Instr) (o : Host.Outcome State Fault Refusal),
      ifAllowed j (s.setInputs rest) (mapNext (fun t => t.setInputs rest) o) =
        mapNext (fun t => t.setInputs rest) (ifAllowed j s o) := by
    intro j o
    rcases ifAllowed_cases j s o with ⟨ha, e⟩ | ⟨ha, e⟩
    · rw [e, ifAllowed_of_allowed (by simpa using ha)]
    · rw [e, ifAllowed_of_not_allowed (by simpa using ha)]; rfl
  cases i with
  | init => exact guard .init (.next (s.beginSession.respond .ok 0))
  | data n p =>
    simp only [exec, execData]
    split
    · rw [← guard]
      congr 1
      simp only [State.setInputs_bitlen, State.setInputs_fill, State.absorbBytes_setInputs]
      split
      · split <;> rfl
      · rfl
    · rfl
  | endCmd =>
    simp only [exec, execEndCmd]
    rw [← guard]
    congr 1
    simp only [State.setInputs_fill, State.finalize_setInputs]
    split <;> rfl
  | fail => exact guard _ (.next ((s.discardData.setSess .failed).respond .ioerr 0))
  | rddig k => exact guard _ (.next (s.respond .ok (digestWord s.h k)))
  | rdstat => exact guard .rdstat (.next (s.respond .ok (statusWord s.sess s.fill)))

end Sys2Proof.Machine
end

