-- ==== Sys2Proof/Laws/PerInstr.lean ====
section
/-! SUPPORT. Statements for every command, one lemma for each constructor. -/

namespace Sys2Proof.Laws

/-! ### The OP field and the reserved fields of an encoded word (30_encoding R54, R57) -/

/-- The opcode of each command (30_encoding R57). -/
def opcodeOf : Instr → BitVec 4
  | .init => 1
  | .data _ _ => 2
  | .endCmd => 3
  | .fail => 4
  | .rddig _ => 5
  | .rdstat => 6

/-- An encoded word has the command's OP, and zeros in every reserved field, whatever the operands. -/
def EncodedFields.Statement (i : Instr) : Prop :=
  opField (encodeWord i) = opcodeOf i ∧ rsv0Field (encodeWord i) = 0 ∧
    rsv1Field (encodeWord i) = 0 ∧ rsv2Field (encodeWord i) = 0

theorem EncodedFields.init : EncodedFields.Statement .init := by
  unfold EncodedFields.Statement; decide

theorem EncodedFields.data (n : BitVec 7) (payload : Block) :
    EncodedFields.Statement (.data n payload) := by
  revert n
  simp only [EncodedFields.Statement, encodeWord, opcodeOf]
  decide +kernel

theorem EncodedFields.endCmd : EncodedFields.Statement .endCmd := by
  unfold EncodedFields.Statement; decide

theorem EncodedFields.fail : EncodedFields.Statement .fail := by
  unfold EncodedFields.Statement; decide

theorem EncodedFields.rddig (i : BitVec 3) : EncodedFields.Statement (.rddig i) := by
  revert i
  simp only [EncodedFields.Statement, encodeWord, opcodeOf]
  decide

theorem EncodedFields.rdstat : EncodedFields.Statement .rdstat := by
  unfold EncodedFields.Statement; decide

end Sys2Proof.Laws
end

