-- ==== Sys2Proof/Laws/System.lean ====
section
/-! SUPPORT. The engines of a system: what a step of one does to the others, and that their numbers
stay apart (20_memory R47; 60_exceptions R142). -/

namespace Sys2Proof.Machine

/-- Everything a step of engine `k` can do to a system. -/
theorem systemStep_next_cases {k : Nat} {sys sys' : List State} (h : systemStep k sys = .next sys') :
    (sys[k]? = none ∧ sys' = sys) ∨
      ∃ s t, sys[k]? = some s ∧ step s = .next t ∧ sys' = sys.set k t := by
  unfold systemStep at h
  cases hk : sys[k]? with
  | none => simp_all
  | some s =>
    simp only [hk] at h
    cases ht : step s <;> simp_all

/-- The engines of a system have the numbers 0, 1, ..., `N_INSTANCES` − 1. -/
theorem systemReset_engine : systemReset.map State.engine = List.range Config.nInstances := by
  simp [systemReset, Function.comp_def]

/-- A step of the system leaves every engine its number. -/
theorem systemStep_engine {k : Nat} {sys sys' : List State} (h : systemStep k sys = .next sys') :
    sys'.map State.engine = sys.map State.engine := by
  rcases systemStep_next_cases h with ⟨-, rfl⟩ | ⟨s, t, hk, ht, rfl⟩
  · rfl
  · apply List.ext_getElem?
    intro j
    simp only [List.getElem?_map, List.getElem?_set]
    split
    · next hj =>
      subst hj
      obtain ⟨hl, hs⟩ := List.getElem?_eq_some_iff.mp hk
      simp [hl, hs, step_engine ht]
    · rfl

end Sys2Proof.Machine
end

