-- ==== Sys2Proof/Tests/Slice0.lean ====
section
/-! SUPPORT. Tests. Every expected value is from spec/95_test_vectors.md or from a worked example of
the rule named, never from the model. -/

namespace Sys2Proof.Machine.Tests

/-! ### WellFormed refuses ill-formed terms (30_encoding R58) -/

theorem test_data_0_ill_formed : (Instr.data 0 (Vector.replicate 64 0)).wellFormed = false := by decide
theorem test_data_65_ill_formed : (Instr.data 65 (Vector.replicate 64 0)).wellFormed = false := by
  decide
theorem test_data_64_well_formed : (Instr.data 64 (Vector.replicate 64 0)).wellFormed = true := by
  decide

/-! ### Decoding words written out from 30_encoding R54 and R57 (vectors V-E1, V-E2)

Bits, most significant first: RRRRRRRRRRRRR III R LLLLLLL RRRR OOOO. -/

theorem test_decode_init : decode 0b0000000000000_000_0_0000000_0000_0001 0 = .instr .init := by decide
theorem test_decode_end : decode 0b0000000000000_000_0_0000000_0000_0011 0 = .instr .endCmd := by decide
theorem test_decode_fail : decode 0b0000000000000_000_0_0000000_0000_0100 0 = .instr .fail := by decide
theorem test_decode_rddig_7 :
    decode 0b0000000000000_111_0_0000000_0000_0101 0 = .instr (.rddig 7) := by decide
theorem test_decode_rdstat : decode 0b0000000000000_000_0_0000000_0000_0110 0 = .instr .rdstat := by
  decide

/-- V-E2: DATA "abc" has `cmd_payload[511:488] = 0x616263`. -/
theorem test_decode_data_abc :
    decode 0b0000000000000_000_0_0000011_0000_0010 (0x616263 <<< 488) =
      .instr (.data 3 (blockOfBytes [0x61, 0x62, 0x63])) := by decide +kernel

/-- V-E1, the words that are not legal. -/
theorem test_decode_illegal_words :
    ([0x00000000, 0x00000007, 0x0000000f, 0x00000002, 0x00004102, 0x00007f02, 0x00000011, 0x00008302,
      0x00080005, 0x80000006, 0x00000101, 0x00010001, 0x00010302, 0x00000105].map
        fun w => decode w 0) =
      [.illegal .reservedOpcode, .illegal .reservedOpcode, .illegal .reservedOpcode,
       .illegal .lenOutOfRange, .illegal .lenOutOfRange, .illegal .lenOutOfRange,
       .illegal .reservedBits, .illegal .reservedBits, .illegal .reservedBits, .illegal .reservedBits,
       .illegal .lenOutsideData, .illegal .idxOutsideRddig, .illegal .idxOutsideRddig,
       .illegal .lenOutsideData] := by decide

theorem test_decode_table_word : decodeTableWord 32 0x00070005 = some (.rddig 7) := by decide
theorem test_decode_table_word_data :
    decodeTableWord 32 0x00004002 = some (.data 64 (Vector.replicate 64 0)) := by decide +kernel

/-! ### Primitives (vectors V-B1 to V-B5) -/

theorem test_rotr : [rotr 1 1, rotr 0x12345678 8, rotr 0x12345678 32, rotr 0x12345678 36] =
    [0x80000000, 0x78123456, 0x12345678, 0x81234567] := by decide
theorem test_shr : [shr 0x80000000 31, shr 0xffffffff 10, shr 0x12345678 3] =
    [0x00000001, 0x003fffff, 0x02468acf] := by decide
theorem test_pack : packBE32 0x61 0x62 0x63 0x80 = 0x61626380 := by decide
theorem test_unpack : unpackBE32 0xba7816bf = [0xba, 0x78, 0x16, 0xbf] := by decide
theorem test_pack64 : packBE64 448 = [0, 0, 0, 0, 0, 0, 0x01, 0xc0] := by decide
theorem test_sigmas :
    [smallSigma0 0x61626380, smallSigma1 0x61626380, bigSigma0 0x6a09e667, bigSigma1 0x510e527f] =
      [0x940e90ef, 0x7da86405, 0xce20b47e, 0x3587272b] := by decide
theorem test_ch_maj :
    (ch 0x510e527f 0x9b05688c 0x1f83d9ab, maj 0x6a09e667 0xbb67ae85 0x3c6ef372) =
      (0x1f85c98c, 0x3a6fe667) := by decide

/-! ### Schedule, rounds, compression (vectors V-W1, V-T1, V-T3) -/

/-- The padded "abc" block (41_schedule R84). -/
def abcBlock : Block := blockOfBytes ([0x61, 0x62, 0x63, 0x80] ++ zeros 59 ++ [0x18])

theorem test_schedule :
    [(schedule abcBlock)[15], (schedule abcBlock)[17], (schedule abcBlock)[18],
      (schedule abcBlock)[63]] = [0x00000018, 0x000f0000, 0x7da86405, 0x12b1edeb] := by
  decide +kernel

theorem test_round_0 : roundStep (schedule abcBlock) (initialRegs H0) 0 =
    ⟨⟨0x5d6aebcd, 0x6a09e667, 0xbb67ae85, 0x3c6ef372, 0xfa2a4622, 0x510e527f, 0x9b05688c, 0x1f83d9ab⟩,
      0x54da50e8, 0x08909ae5⟩ := by decide +kernel

theorem test_compress_abc : (compressH H0 abcBlock).toList =
    [0xba7816bf, 0x8f01cfea, 0x414140de, 0x5dae2223, 0xb00361a3, 0x96177a9c, 0xb410ff61, 0xf20015ad] := by
  decide +kernel

/-! ### Commands, one step each on a small state (vectors V-C1, V-F, V-D, V-S) -/

/-- An open session that holds the bytes `bs` (fewer than 64) and has absorbed nothing else. -/
def openWith (bs : List Byte) : State :=
  { State.reset with
    sess := .absorb
    h := H0
    buf := blockOfBytes bs
    fill := BitVec.ofNat 7 bs.length
    bitlen := BitVec.ofNat 64 (8 * bs.length) }

/-- What a test looks at in an answer: `SESS`, `RCODE`, `RDATA`, `FILL`, `BITLEN`. -/
def view : Host.Outcome State Fault Refusal → Option (Sess × RCode × Word × BitVec 7 × BitVec 64)
  | .next t => some (t.sess, t.rcode, t.rdata, t.fill, t.bitlen)
  | .fault _ => none
  | .refused _ => none

/-- `SESS`, `RCODE`, `RDATA` only, where the rest holds no defined value. -/
def viewResponse : Host.Outcome State Fault Refusal → Option (Sess × RCode × Word)
  | .next t => some (t.sess, t.rcode, t.rdata)
  | .fault _ => none
  | .refused _ => none

/-- The words of `H`. -/
def viewH : Host.Outcome State Fault Refusal → List Word
  | .next t => t.h.toList
  | .fault _ => []
  | .refused _ => []

/-- The step of the command of a table word, right after reset or later. -/
def stepWord (s : State) (w : Nat) : Host.Outcome State Fault Refusal := step (s.withFetchWord 32 w)

theorem test_init_from_reset : view (stepWord State.reset 1) = some (.absorb, .ok, 0, 0, 0) := by decide
theorem test_init_loads_H0 : viewH (stepWord State.reset 1) =
    [0x6a09e667, 0xbb67ae85, 0x3c6ef372, 0xa54ff53a, 0x510e527f, 0x9b05688c, 0x1f83d9ab, 0x5be0cd19] := by
  decide

/-- V-C1: DATA "d" after "abc". -/
theorem test_data_d : view (exec (.data 1 (blockOfBytes [0x64])) (openWith [0x61, 0x62, 0x63])) =
    some (.absorb, .ok, 0, 4, 32) := by decide +kernel

/-- V-F5: FILL 63, DATA 64 leaves FILL 63 and adds 512. -/
theorem test_data_across_a_block :
    view (exec (.data 64 (Vector.replicate 64 0x61)) (openWith (List.replicate 63 0x61))) =
      some (.absorb, .ok, 0, 63, 1016) := by decide +kernel

/-- V-D1: END of the empty message. -/
theorem test_end_empty : viewH (exec .endCmd (openWith [])) =
    [0xe3b0c442, 0x98fc1c14, 0x9afbf4c8, 0x996fb924, 0x27ae41e4, 0x649b934c, 0xa495991b, 0x7852b855] := by
  decide +kernel

/-- V-D5: `'a'×56`, two padding blocks. -/
theorem test_end_two_blocks : viewH (exec .endCmd (openWith (List.replicate 56 0x61))) =
    [0xb35439a4, 0xac6f0948, 0xb6d6f9e3, 0xc6af0f5f, 0x590ce20f, 0x1bde7090, 0xef797068, 0x6ec6738a] := by
  decide +kernel

theorem test_fail : viewResponse (stepWord (openWith [0x61]) 4) = some (.failed, .ioerr, 0) := by
  decide
theorem test_fail_from_reset : viewResponse (stepWord State.reset 4) = some (.idle, .state, 0) := by
  decide

/-- V-C1: RDDIG in DONE reads the digest word; in FAILED it answers IOERR. -/
theorem test_rddig : viewResponse
    (stepWord { State.reset with sess := .done, h := Vector.replicate 8 0xf20015ad } 0x00070005) =
      some (.done, .ok, 0xf20015ad) := by decide
theorem test_rddig_failed : viewResponse (stepWord { State.reset with sess := .failed } 5) =
    some (.failed, .ioerr, 0) := by decide

/-- R114: after INIT and DATA 3 "abc", RDSTAT answers (OK, 0x00000301). -/
theorem test_rdstat : viewResponse (stepWord (openWith [0x61, 0x62, 0x63]) 6) =
    some (.absorb, .ok, 0x00000301) := by decide
theorem test_rdstat_failed : viewResponse (stepWord { State.reset with sess := .failed } 6) =
    some (.failed, .ok, 0x00000003) := by decide

/-- V-C1: ILLEGAL is checked first, in FAILED too. -/
theorem test_illegal_first : viewResponse (stepWord { State.reset with sess := .failed } 2) =
    some (.failed, .illegal, 0) := by decide

/-- V-F7: from `2^64 − 8`, DATA 1 is refused and sets the mark, and nothing else. -/
theorem test_length_bound :
    (match stepWord { openWith [] with bitlen := 0xfffffffffffffff8 } 0x102 with
      | .next t => (t.refused, t.fill, t.bitlen, t.rcode) == (true, 0, 0xfffffffffffffff8, .ok)
      | _ => false) = true := by decide

/-- V-F7: from `2^64 − 16`, DATA 1 is performed. -/
theorem test_length_admitted :
    view (stepWord { openWith [] with bitlen := 0xfffffffffffffff0 } 0x102) =
      some (.absorb, .ok, 0, 1, 0xfffffffffffffff8) := by decide +kernel

/-! ### Ports, reset, host side -/

/-- V-R2: a response that is not taken, then `rst`: IDLE, and no response. -/
theorem test_reset_cuts_a_command :
    (match step { openWith [0x61] with rspValid := true, inputs := [resetSample] } with
      | .next t => (t.sess, t.rspValid) == (.idle, false)
      | _ => false) = true := by decide

/-- V-D2: `SHA256("a")` by the reference function. -/
theorem test_reference : (sha256Words [0x61]).toList =
    [0xca978112, 0xca1bbdca, 0xfac231b3, 0x9a23dc4d, 0xa786eff8, 0x147c4e72, 0xb9807785, 0xafee48bb] := by
  decide +kernel

/-- 45_host_protocol R128: byte 0 first, the high nibble first. -/
theorem test_digest_text : digestText [0xe3, 0xb0] = ['e', '3', 'b', '0'] := by decide

/-- 30_encoding R65 and program P4: `RDDIG 7`, `.word 0x00004102`, and a line that is refused. -/
theorem test_assemble_lines :
    [assembleLine ['R', 'D', 'D', 'I', 'G', ' ', '7'],
     assembleLine ['.', 'w', 'o', 'r', 'd', ' ', '0', 'x', '0', '0', '0', '0', '4', '1', '0', '2'],
     assembleLine ['R', 'D', 'D', 'I', 'G', ' ', '8']] =
      [.commands [(0x00070005, 0)], .commands [(0x00004102, 0)], .refused] := by decide +kernel

/-- 30_encoding R65 and program P3: `DATA "a"` and `DATA fill:64x61`. -/
theorem test_assemble_data :
    [assembleLine ['D', 'A', 'T', 'A', ' ', '"', 'a', '"'],
     assembleLine ['D', 'A', 'T', 'A', ' ', 'f', 'i', 'l', 'l', ':', '6', '4', 'x', '6', '1']] =
      [.commands [(0x00000102, 0x61 <<< 504)],
       .commands [(0x00004002, busOfPayload (Vector.replicate 64 0x61))]] := by decide +kernel

/-! ### Witnesses: for each statement with hypotheses, values that meet all of them together -/

/-- The answer is a next state. -/
def isNext {α β γ : Type} : Host.Outcome α β γ → Bool
  | .next _ => true
  | .fault _ => false
  | .refused _ => false

/-- An open session with the port driven by `ps`. -/
def drivenBy (ps : List PortInput) : State := { openWith [0x61] with inputs := ps }

/-- Sixty-four bytes 0, 1, ..., 63. -/
def countingBlock : Block := Vector.ofFn fun j => BitVec.ofNat 8 j.val

theorem witness_DecodeOfEncode :
    ([.data 1 countingBlock, .data 64 countingBlock, .rddig 0, .rddig 7, .init, .endCmd, .fail, .rdstat].all
      fun i => Instr.wellFormed i) = true := by decide

theorem witness_DecodeDeterminesWord : decode 0x00070005 5 = .instr (.rddig 7) := by decide

/-- The bounds on positions in the statements about words, digests and the schedule, at their ends. -/
theorem witness_SmallSigmasBitwise : (0 : Nat) < 32 ∧ (31 : Nat) < 32 := by decide
theorem witness_BigSigmasBitwise : (0 : Nat) < 32 ∧ (31 : Nat) < 32 := by decide
theorem witness_ChooseAndMajority : (0 : Nat) < 32 ∧ (31 : Nat) < 32 := by decide
theorem witness_BigEndianPacking : (0 : Nat) < 8 ∧ (7 : Nat) < 8 := by decide
theorem witness_TablesAreRootsOfPrimes : (7 : Nat) < 8 ∧ (63 : Nat) < 64 := by decide
theorem witness_DigestIsBigEndian : (7 : Nat) < 8 ∧ (3 : Nat) < 4 := by decide
theorem witness_ScheduleRecurrence : (15 : Nat) < 16 ∧ (16 : Nat) < 64 ∧ 16 ≤ (16 : Nat) := by decide

theorem witness_UnusedPayloadHasNoEffect :
    (∀ (j : Nat) (hj : j < 64), j < (1 : BitVec 7).toNat →
      (blockOfBytes [7, 8])[j] = (blockOfBytes [7, 9])[j]) ∧
    blockOfBytes [7, 8] ≠ blockOfBytes [7, 9] ∧ opField 1 ≠ 2 := by
  refine ⟨fun j hj h => ?_, ?_, by decide⟩
  · have : j = 0 := by simpa using h
    subst this; rfl
  · intro h
    have := congrArg (fun v : Block => v[1]) h
    revert this; decide

theorem witness_PaddingIsWholeBlocks :
    (List.replicate 0 (0 : Byte)).length ≤ 55 ∧ (List.replicate 55 (0 : Byte)).length ≤ 55 ∧
      56 ≤ (List.replicate 56 (0 : Byte)).length ∧ (List.replicate 63 (0 : Byte)).length ≤ 63 := by decide

theorem witness_IdempotentCommands :
    isNext (exec .init State.reset) = true ∧ isNext (exec .rdstat State.reset) = true ∧
      isNext (exec (.rddig 3) State.reset) = true := by decide

theorem witness_DataAppendsBytes :
    (openWith []).sess = .absorb ∧ 1 ≤ (63 : BitVec 7).toNat ∧ (63 : BitVec 7).toNat ≤ 64 ∧
      (openWith []).bitlen.toNat + 8 * (63 : BitVec 7).toNat ≤ 2 ^ 64 - 8 ∧
      (openWith []).fill.toNat + (63 : BitVec 7).toNat < 64 := by decide

theorem witness_DataCompressesCompletedBlock :
    (∀ l ∈ [0, 63], (openWith (List.replicate l 0)).sess = .absorb ∧
      (openWith (List.replicate l 0)).bitlen.toNat + 8 * (64 : BitVec 7).toNat ≤ 2 ^ 64 - 8 ∧
      (openWith (List.replicate l 0)).fill.toNat ≤ 63 ∧
      64 ≤ (openWith (List.replicate l 0)).fill.toNat + (64 : BitVec 7).toNat) ∧
    64 ≤ (openWith (List.replicate 63 0)).fill.toNat + (1 : BitVec 7).toNat := by decide +kernel

/-- A session at the length bound, with DATA 1 offered. -/
def atTheBound : State :=
  { openWith [] with fill := 63, bitlen := 0xfffffffffffffff8, inputs := [commandSample 0x00000102 0] }

theorem witness_DataPastTheBoundIsRefused :
    atTheBound.sess = .absorb ∧ 1 ≤ (1 : BitVec 7).toNat ∧ (1 : BitVec 7).toNat ≤ 64 ∧
      2 ^ 64 - 8 < atTheBound.bitlen.toNat + 8 * (1 : BitVec 7).toNat ∧
      atTheBound.inputs = commandSample 0x00000102 0 :: [] ∧ (commandSample 0x00000102 0).rst = false ∧
      atTheBound.rspValid = false ∧ (commandSample 0x00000102 0).cmdValid = true ∧
      decode (commandSample 0x00000102 0).cmdWord (commandSample 0x00000102 0).cmdPayload =
        .instr (.data 1 (payloadOfBus 0)) := by decide +kernel

theorem witness_RefusalMarkIsSticky :
    (∃ t, step atTheBound = .next t ∧ atTheBound.refused = false ∧ t.refused = true) ∧
      ∃ t, step { State.reset with refused := true } = .next t ∧ t.refused = true :=
  ⟨⟨_, rfl, rfl, rfl⟩, ⟨_, rfl, rfl⟩⟩

theorem witness_IllFormedDataAnswersIllegal :
    (0 : BitVec 7).toNat = 0 ∧ 64 < (65 : BitVec 7).toNat ∧ 64 < (127 : BitVec 7).toNat := by decide

theorem witness_FullBufferFaults :
    ({ openWith [] with fill := 64 } : State).sess = .absorb ∧
      63 < ({ openWith [] with fill := 64 } : State).fill.toNat ∧
      1 ≤ (64 : BitVec 7).toNat ∧ (64 : BitVec 7).toNat ≤ 64 ∧
      ({ openWith [] with fill := 64 } : State).bitlen.toNat + 8 * (64 : BitVec 7).toNat ≤ 2 ^ 64 - 8 := by
  decide

theorem witness_EndCompressesOnePaddingBlock :
    ∀ l ∈ [0, 55], (openWith (List.replicate l 0)).sess = .absorb ∧
      (openWith (List.replicate l 0)).fill.toNat ≤ 55 := by decide

theorem witness_EndCompressesTwoPaddingBlocks :
    ∀ l ∈ [56, 63], (openWith (List.replicate l 0)).sess = .absorb ∧
      56 ≤ (openWith (List.replicate l 0)).fill.toNat ∧
      (openWith (List.replicate l 0)).fill.toNat ≤ 63 := by decide

theorem witness_NoStaleBufferByte :
    (openWith [7]).sess = .absorb ∧
      ({ openWith [7] with buf := blockOfBytes [7, 9] } : State).sess = .absorb ∧
      (openWith [7]).h = ({ openWith [7] with buf := blockOfBytes [7, 9] } : State).h ∧
      (openWith [7]).bitlen = ({ openWith [7] with buf := blockOfBytes [7, 9] } : State).bitlen ∧
      (openWith [7]).fill = ({ openWith [7] with buf := blockOfBytes [7, 9] } : State).fill ∧
      (openWith [7]).fill.toNat ≤ 63 ∧
      (∀ (j : Nat) (hj : j < 64), j < (openWith [7]).fill.toNat →
        (openWith [7]).buf[j] = (blockOfBytes [7, 9])[j]) := by
  refine ⟨rfl, rfl, rfl, rfl, rfl, by decide, fun j hj h => ?_⟩
  have : j = 0 := by simpa [openWith] using h
  subst this; rfl

theorem witness_FailAbortsTheSession : (openWith [0x61]).sess = .absorb := rfl

theorem witness_RddigReadsDigestWord : ({ State.reset with sess := .done } : State).sess = .done := rfl

theorem witness_SessionTable :
    (State.reset.sess ≠ .absorb ∧ State.reset.sess ≠ .done) ∧ isNext (exec .init State.reset) = true ∧
      isNext (exec (.data 1 countingBlock) (openWith [])) = true ∧
      isNext (exec .endCmd (openWith [])) = true ∧ isNext (exec .fail (openWith [])) = true ∧
      isNext (exec (.rddig 7) { State.reset with sess := .done }) = true ∧
      isNext (exec .rdstat State.reset) = true := by decide +kernel

theorem witness_DigestIsImmutable :
    (Instr.endCmd).wellFormed = true ∧ ({ State.reset with sess := .done } : State).sess = .done ∧
      Instr.endCmd ≠ .init := by decide

theorem witness_FailedUntilInit :
    ({ State.reset with sess := .failed } : State).sess = .failed ∧
      ∀ i ∈ [Instr.rddig 0, .endCmd, .data 1 countingBlock, .rdstat],
        i.wellFormed = true ∧ i ≠ .init := by decide

theorem witness_EveryCommandIsAnswered : (openWith [0x61]).Inv ∧ atTheBound.Inv := by
  refine ⟨fun _ => by decide, fun _ => by decide⟩

/-- An open session with one byte buffered, other hash words and a longer count than `openWith [1]`. -/
def laterSession : State := { openWith [2] with h := Vector.replicate 8 5, bitlen := 520 }

theorem witness_PartialHashNeverExposed :
    (openWith [1]).sess = laterSession.sess ∧ (openWith [1]).sess ≠ .done ∧
      (openWith [1]).fill = laterSession.fill ∧ (openWith [1]).bitlen ≠ laterSession.bitlen ∧
      (∀ i ∈ [Instr.data 64 countingBlock, .rdstat, .fail, .rddig 1], i ≠ .endCmd) ∧
      isNext (runCommands [.data 64 countingBlock, .rdstat, .fail, .rddig 1] (openWith [1])) = true ∧
      isNext (runCommands [.data 64 countingBlock, .rdstat, .fail, .rddig 1] laterSession) = true := by
  decide +kernel

/-- Two cuts of the same 65 bytes. -/
def cutA : List (List Byte) := [List.replicate 64 7, [7]]
/-- The other cut. -/
def cutB : List (List Byte) := [[7], List.replicate 64 7]

theorem witness_SessionComputesSha256 :
    (∀ c ∈ cutA, 1 ≤ c.length ∧ c.length ≤ 64) ∧ 8 * cutA.flatten.length < 2 ^ 64 := by decide

theorem witness_ChunkingFreedom :
    (∀ c ∈ cutA, 1 ≤ c.length ∧ c.length ≤ 64) ∧
      (∀ c ∈ cutB, 1 ≤ c.length ∧ c.length ≤ 64) ∧ cutA.flatten = cutB.flatten ∧ cutA ≠ cutB ∧
      isNext (runCommands (.init :: (dataCommands cutA ++ [.endCmd])) State.reset) = true ∧
      isNext (runCommands (.init :: (dataCommands cutB ++ [.endCmd])) (openWith [1])) = true := by
  decide +kernel

theorem witness_HashReturnsTheDigest : 8 * (List.replicate 65 (7 : Byte)).length < 2 ^ 64 := by decide

theorem witness_StreamSurfacesFirstError :
    (∀ c ∈ cutB, 1 ≤ c.length ∧ c.length ≤ 64) ∧ 8 * cutB.flatten.length < 2 ^ 64 := by decide

theorem witness_DigestTextIsHex : 1 < [(0xe3 : Byte), 0xb0].length := by decide

theorem witness_StepRunsDecodedCommand :
    (drivenBy [sampleOf .rdstat]).inputs = sampleOf .rdstat :: [] ∧ (sampleOf .rdstat).rst = false ∧
      (drivenBy [sampleOf .rdstat]).rspValid = false ∧ (sampleOf .rdstat).cmdValid = true ∧
      decode (sampleOf .rdstat).cmdWord (sampleOf .rdstat).cmdPayload = .instr .rdstat ∧
      isNext (exec .rdstat (drivenBy [])) = true ∧
      exec .endCmd { openWith [] with fill := 64 } = .fault .fillOutOfRange ∧
      exec (.data 1 (payloadOfBus 0)) { atTheBound with inputs := [] } = .refused .lengthOverflow :=
  ⟨rfl, rfl, rfl, rfl, by decide +kernel, rfl, rfl, rfl⟩

/-- One word for each kind of illegal word, in the order of the statement. -/
theorem witness_IllegalWordChangesNothing :
    opField 0x00000000 = 0 ∧ 7 ≤ (opField 0x00000007).toNat ∧ rsv0Field 0x00000011 ≠ 0 ∧
      rsv1Field 0x00008302 ≠ 0 ∧ rsv2Field 0x80000006 ≠ 0 ∧
      (opField 0x00000002 = 2 ∧ lenField 0x00000002 = 0) ∧
      (opField 0x00004102 = 2 ∧ 64 < (lenField 0x00004102).toNat) ∧
      (opField 0x00000101 ≠ 2 ∧ lenField 0x00000101 ≠ 0) ∧
      (opField 0x00010302 ≠ 5 ∧ idxField 0x00010302 ≠ 0) ∧
      (drivenBy [commandSample 0 0]).inputs = commandSample 0 0 :: [] ∧
      (drivenBy [commandSample 0 0]).rspValid = false ∧ (commandSample 0 0).rst = false ∧
      (commandSample 0 0).cmdValid = true := by decide +kernel

/-- Each clause of the priority: illegal, failed, not allowed, performed. -/
theorem witness_CodePriority :
    (drivenBy [commandSample 0 0]).inputs = commandSample 0 0 :: [] ∧ (commandSample 0 0).rst = false ∧
      (drivenBy []).rspValid = false ∧ (commandSample 0 0).cmdValid = true ∧
      ({ drivenBy [] with sess := .failed } : State).sess = .failed ∧
      legal 0x00000000 = false ∧ (legal 0x00000003 = true ∧ opField 0x00000003 ≠ 1 ∧ opField 0x00000003 ≠ 6) ∧
      (legal 0x00070005 = true ∧ opField 0x00070005 = 5 ∧ (drivenBy []).sess ≠ .done) ∧
      (legal 0x00000004 = true ∧ (drivenBy []).sess = .absorb ∧
        isNext (perform 0x00000004 0 (drivenBy [])) = true) := by decide +kernel

theorem witness_StepsFollowCommandOrder :
    (∀ i ∈ [Instr.init, dataCommand [7], .rdstat], i.wellFormed = true) ∧
      State.reset.rspValid = false ∧
      isNext (runCommands [.init, dataCommand [7], .rdstat] State.reset) = true := by decide +kernel

theorem witness_OneCommandAtATime :
    ({ drivenBy [sampleOf .init] with rspValid := true } : State).inputs = sampleOf .init :: [] ∧
      ({ drivenBy [sampleOf .init] with rspValid := true } : State).rspValid = true ∧
      (sampleOf .init).rst = false := by
  decide +kernel

theorem witness_UntakenResponseIsStuck :
    ({ drivenBy [{ sampleOf .init with rspReady := false }] with rspValid := true } : State).HostStuck := by
  refine ⟨rfl, fun p hp => ?_⟩
  have : p = { sampleOf .init with rspReady := false } := by simpa [drivenBy] using hp
  subst this; decide

theorem witness_WaitingChangesNothing :
    (drivenBy [{ sampleOf .init with cmdValid := false }]).rspValid = false ∧
      ∀ p ∈ [{ sampleOf .init with cmdValid := false }], p.rst = false ∧ p.cmdValid = false := by
  decide +kernel

theorem witness_ResetAbandonsTheCommand :
    ({ drivenBy [resetSample] with rspValid := true } : State).inputs = resetSample :: [] ∧
      resetSample.rst = true := ⟨rfl, rfl⟩

theorem witness_ResetAwaitsInit :
    State.reset.sess = .idle ∧ (Instr.data 64 countingBlock).wellFormed = true ∧
      Instr.data 64 countingBlock ≠ .init := by decide

theorem witness_StepKeepsInvariant :
    (drivenBy [sampleOf (dataCommand [7])]).Inv ∧ isNext (step (drivenBy [sampleOf (dataCommand [7])])) = true :=
  ⟨fun _ => by decide, by decide +kernel⟩

theorem witness_InstancesAreIndependent :
    isNext (systemStep 1 [State.reset, drivenBy [sampleOf .rdstat]]) = true ∧ (0 : Nat) ≠ 1 := by
  decide +kernel

end Sys2Proof.Machine.Tests
end

/-! SUPPORT. Proofs of the statements of 20_memory.md. -/

/-! ### The decoder undoes the encoder (30_encoding R57, R59) -/

namespace Sys2Proof

/-- The mask of every row covers OP (30_encoding R59). -/
theorem opField_mask_of_mem_decodeRows :
    ∀ r ∈ decodeRows, opField r.mask = BitVec.allOnes 4 := by decide

/-- So a selected word has the row's OP. -/
theorem DecodeRow.opField_of_selects {r : DecodeRow} (hr : r ∈ decodeRows) {w : BitVec 32}
    (h : r.selects w = true) : opField w = opField r.value := by
  have hval : w &&& r.mask = r.value := by
    simp only [DecodeRow.selects, Bool.and_eq_true, beq_iff_eq] at h
    exact h.1
  calc opField w = opField w &&& opField r.mask := by
        rw [opField_mask_of_mem_decodeRows r hr, BitVec.and_allOnes]
    _ = opField (w &&& r.mask) := BitVec.extractLsb'_and.symm
    _ = opField r.value := by rw [hval]

/-- No two rows have the same OP. -/
theorem decodeRow_eq_of_opField_eq {r r' : DecodeRow} (hr : r ∈ decodeRows) (hr' : r' ∈ decodeRows)
    (h : opField r.value = opField r'.value) : r = r' :=
  List.inj_on_of_nodup_map (f := fun r : DecodeRow => opField r.value) (by decide) hr hr' h

/-- A word is decoded by any row that it selects. -/
theorem decode_of_selects {r : DecodeRow} (hr : r ∈ decodeRows) {w : BitVec 32}
    (h : r.selects w = true) (bus : BitVec 512) :
    decode w bus = .instr (r.build (lenField w) (idxField w) (payloadOfBus bus)) := by
  have hfind : decodeRows.find? (fun r => r.selects w) = some r := by
    cases hf : decodeRows.find? (fun r => r.selects w) with
    | none => exact absurd h (List.find?_eq_none.mp hf r hr)
    | some r' =>
      have hr' := List.mem_of_find?_eq_some hf
      have hsel' : r'.selects w = true := List.find?_some (p := fun r : DecodeRow => r.selects w) hf
      have hop : opField r'.value = opField r.value :=
        (r'.opField_of_selects hr' hsel').symm.trans (r.opField_of_selects hr h)
      rw [decodeRow_eq_of_opField_eq hr' hr hop]
  rw [decode, hfind]

@[simp] theorem lenField_encodeWord_data (n : BitVec 7) (p : Block) :
    lenField (encodeWord (.data n p)) = n := by
  revert n
  simp only [encodeWord]
  decide

@[simp] theorem idxField_encodeWord_rddig (i : BitVec 3) : idxField (encodeWord (.rddig i)) = i := by
  revert i
  simp only [encodeWord]
  decide

/-- LEN lies outside the mask of the row of DATA. -/
theorem encodeWord_data_and_mask (n : BitVec 7) (p : Block) :
    encodeWord (.data n p) &&& decodeRows[1].mask = decodeRows[1].value := by
  revert n
  simp only [encodeWord]
  decide

/-- IDX lies outside the mask of the row of RDDIG. -/
theorem encodeWord_rddig_and_mask (i : BitVec 3) :
    encodeWord (.rddig i) &&& decodeRows[4].mask = decodeRows[4].value := by
  revert i
  simp only [encodeWord]
  decide

/-- The decoder gives back every well-formed command that was encoded. -/
theorem decode_encodeWord {i : Instr} (hw : i.wellFormed = true) :
    decode (encodeWord i) (encodeBus i) = .instr i := by
  cases i with
  | init => exact decode_of_selects (r := decodeRows[0]) (List.getElem_mem _) (by decide) _
  | data n p =>
    have hsel : decodeRows[1].selects (encodeWord (.data n p)) = true := by
      rw [DecodeRow.selects, encodeWord_data_and_mask, beq_self_eq_true, Bool.true_and,
        lenField_encodeWord_data]
      exact hw
    rw [decode_of_selects (List.getElem_mem _) hsel]
    simp [decodeRows, encodeBus, payloadOfBus_busOfPayload]
  | endCmd => exact decode_of_selects (r := decodeRows[2]) (List.getElem_mem _) (by decide) _
  | fail => exact decode_of_selects (r := decodeRows[3]) (List.getElem_mem _) (by decide) _
  | rddig k =>
    have hsel : decodeRows[4].selects (encodeWord (.rddig k)) = true := by
      rw [DecodeRow.selects, encodeWord_rddig_and_mask, beq_self_eq_true]
      rfl
    rw [decode_of_selects (List.getElem_mem _) hsel]
    simp [decodeRows]
  | rdstat => exact decode_of_selects (r := decodeRows[5]) (List.getElem_mem _) (by decide) _

end Sys2Proof

namespace Sys2Proof.Machine

/-! ### The steps of an obedient host (20_memory R46; 45_host_protocol R122) -/

/-- The engine performs an encoded command as the command itself (44_streaming R105). -/
theorem perform_encodeWord {i : Instr} (hw : i.wellFormed = true) (s : State) :
    perform (encodeWord i) (encodeBus i) s = exec i s := by
  rw [perform, decode_encodeWord hw]

/-- No command by itself touches `rsp_valid`: the port does (30_encoding R52). -/
theorem exec_rspValid {i : Instr} {s t : State} (h : exec i s = .next t) :
    t.rspValid = s.rspValid := by
  rcases exec_next_cases h with ⟨-, rfl⟩ | ⟨n, p, -, -, rfl⟩ | ⟨n, p, -, -, -, -, -, rfl⟩ |
    ⟨-, -, -, rfl⟩ | ⟨-, -, rfl⟩ | ⟨k, -, -, rfl⟩ | ⟨-, rfl⟩ | ⟨-, -, rfl⟩ <;>
    simp [State.respondIllegal]

/-- Writing the value that `rsp_valid` has changes nothing. -/
theorem State.setRspValid_of_eq {s : State} {v : Bool} (h : s.rspValid = v) :
    s.setRspValid v = s := by
  subst h; rfl

/-- A command that completes is one step on the sample of an obedient host, and no response is left
pending. -/
theorem step_sampleOf {i : Instr} {s t : State} (hw : i.wellFormed = true)
    (hv : s.rspValid = false) (h : exec i s = .next t) (rest : List PortInput) :
    step (s.setInputs (sampleOf i :: rest)) = .next (t.setInputs rest) := by
  have hperf : perform (sampleOf i).cmdWord (sampleOf i).cmdPayload (s.setInputs rest) =
      .next (t.setInputs rest) := by
    calc perform (sampleOf i).cmdWord (sampleOf i).cmdPayload (s.setInputs rest)
        = exec i (s.setInputs rest) := perform_encodeWord hw _
      _ = .next (t.setInputs rest) := by rw [exec_setInputs, h]; rfl
  have hv' : (t.setInputs rest).rspValid = false := (exec_rspValid h).trans hv
  calc step (s.setInputs (sampleOf i :: rest))
      = finishCommand true (s.setInputs rest)
          (perform (sampleOf i).cmdWord (sampleOf i).cmdPayload (s.setInputs rest)) :=
        step_of_accepted rfl rfl hv rfl
    _ = .next ((t.setInputs rest).setRspValid false) := by rw [hperf]; rfl
    _ = .next (t.setInputs rest) := by rw [State.setRspValid_of_eq hv']

/-- A sequence of commands that completes is as many steps on the samples of an obedient host. -/
theorem run_sampleOf {is : List Instr} {s t : State} {rs : List (RCode × Word)}
    (hw : ∀ i ∈ is, i.wellFormed = true) (hv : s.rspValid = false)
    (h : runCommands is s = .next (t, rs)) (rest : List PortInput) :
    Host.Core.run Sys2Proof.core is.length (s.setInputs (is.map sampleOf ++ rest)) =
      .next (t.setInputs rest) := by
  induction is generalizing s rs with
  | nil =>
    simp only [runCommands, Host.Outcome.next.injEq, Prod.mk.injEq] at h
    simp [h.1]
  | cons i is ih =>
    obtain ⟨hwi, hwis⟩ := List.forall_mem_cons.mp hw
    obtain ⟨u, rs', hi, his, -⟩ := runCommands_cons_next h
    rw [List.length_cons, List.map_cons, List.cons_append, run_succ (step_sampleOf hwi hv hi _)]
    exact ih hwis ((exec_rspValid hi).trans hv) his

/-- Settles O46, by induction over the commands: each is one step that leaves no response pending. -/
theorem stepsFollowCommandOrder : Obligations.StepsFollowCommandOrder :=
  fun _ _ _ _ rest hw hv h => run_sampleOf hw hv h rest

/-! ### The bytes of the digest (20_memory R37) -/

@[simp] theorem length_unpackBE32 (x : Word) : (unpackBE32 x).length = 4 := rfl

/-- Byte `k` of a word, counted from the most significant (40_primitives R72). -/
theorem getD_unpackBE32 (x : Word) {k : Nat} (hk : k < 4) :
    (unpackBE32 x).getD k 0 = x.extractLsb' (24 - 8 * k) 8 := by
  interval_cases k <;> rfl

/-- Word `i` of a list of words is bytes `4i` to `4i + 3` of its serialization. -/
theorem getD_flatMap_unpackBE32 (ws : List Word) {i k : Nat} (hi : i < ws.length) (hk : k < 4) :
    (ws.flatMap unpackBE32).getD (4 * i + k) 0 = ws[i].extractLsb' (24 - 8 * k) 8 := by
  induction ws generalizing i with
  | nil => simp at hi
  | cons w ws ih =>
    rw [List.flatMap_cons]
    cases i with
    | zero =>
      rw [Nat.mul_zero, Nat.zero_add, List.getD_append _ _ _ _ (by simpa using hk)]
      exact getD_unpackBE32 w hk
    | succ i =>
      have hi' : i < ws.length := by simpa using hi
      have hoff : 4 * (i + 1) + k - 4 = 4 * i + k := by omega
      rw [List.getD_append_right _ _ _ _ (by simp; omega), length_unpackBE32, hoff]
      exact ih hi'

/-- Settles O13: the digest is the serialization of the eight words of `H`. -/
theorem digestIsBigEndian : Obligations.DigestIsBigEndian := by
  intro h
  refine ⟨by simp [digestBytes, List.length_flatMap], fun i k hi hk => ?_⟩
  exact getD_flatMap_unpackBE32 h.toList (by simpa using hi) hk

/-! ### Several engines (20_memory R47; 60_exceptions R142) -/

/-- A step of one engine keeps the number of engines. -/
theorem systemStep_length {k : Nat} {sys sys' : List State} (h : systemStep k sys = .next sys') :
    sys'.length = sys.length := by
  simpa using congrArg List.length (systemStep_engine h)

/-- A step of engine `k` keeps every other engine. -/
theorem systemStep_getElem?_ne {k j : Nat} {sys sys' : List State}
    (h : systemStep k sys = .next sys') (hj : j ≠ k) : sys'[j]? = sys[j]? := by
  rcases systemStep_next_cases h with ⟨-, rfl⟩ | ⟨s, t, -, -, rfl⟩
  · rfl
  · exact List.getElem?_set_ne hj.symm

/-- A step of engine `k` is that engine's own step. -/
theorem systemStep_getElem?_self {k : Nat} {sys sys' : List State} {s : State}
    (h : systemStep k sys = .next sys') (hs : sys[k]? = some s) :
    ∃ t, step s = .next t ∧ sys'[k]? = some t := by
  rcases systemStep_next_cases h with ⟨hk, -⟩ | ⟨s', t, hk, ht, rfl⟩
  · simp [hk] at hs
  · obtain rfl : s' = s := Option.some.inj (hk.symm.trans hs)
    exact ⟨t, ht, List.getElem?_set_self (List.getElem?_eq_some_iff.mp hk).1⟩

theorem one_le_length_systemReset : 1 ≤ systemReset.length := by
  simp [systemReset, Config.nInstances]

theorem sess_of_mem_systemReset {s : State} (h : s ∈ systemReset) : s.sess = .idle := by
  obtain ⟨k, -, rfl⟩ := List.mem_map.mp h
  rfl

/-- Settles O54: what a step of engine `k` does to it and to the others, and how the engines start. -/
theorem instancesAreIndependent : Obligations.InstancesAreIndependent :=
  ⟨fun _ _ _ h => ⟨systemStep_length h, fun _ hj => systemStep_getElem?_ne h hj,
    fun _ hs => systemStep_getElem?_self h hs⟩,
    one_le_length_systemReset, fun _ hs => sess_of_mem_systemReset hs⟩

end Sys2Proof.Machine

/-! SUPPORT. Proofs of the statements of 30_encoding.md. -/

namespace Sys2Proof

/-! ### The payload lanes (30_encoding R56) -/

/-- Bit `k` of `PAYLOAD[j]` is bit `504 - 8j + k` of the bus. -/
theorem getLsbD_payloadOfBus (bus : BitVec 512) {j k : Nat} (hj : j < 64) (hk : k < 8) :
    ((payloadOfBus bus)[j]).getLsbD k = bus.getLsbD (504 - 8 * j + k) := by
  simp [payloadOfBus, hk]

/-! ### What a selected row says of the fields of the word (30_encoding R58, R59) -/

/-- A field that the mask of a selected row covers has the row's value. -/
theorem DecodeRow.extractLsb'_of_selects {r : DecodeRow} {w : BitVec 32} (h : r.selects w = true)
    {start len : Nat} (hmask : r.mask.extractLsb' start len = BitVec.allOnes len) :
    w.extractLsb' start len = r.value.extractLsb' start len := by
  obtain ⟨hval, -⟩ : w &&& r.mask = r.value ∧ _ := by
    simpa only [DecodeRow.selects, Bool.and_eq_true, beq_iff_eq] using h
  rw [← hval, BitVec.extractLsb'_and, hmask, BitVec.and_allOnes]

/-- Every row has an OP from 1 to 6. -/
theorem opField_value_of_mem_decodeRows :
    ∀ r ∈ decodeRows, 1 ≤ (opField r.value).toNat ∧ (opField r.value).toNat ≤ 6 := by decide

/-- Every row asks for zeros in the reserved fields. -/
theorem rsvFields_of_mem_decodeRows : ∀ r ∈ decodeRows,
    (rsv0Field r.mask = BitVec.allOnes 4 ∧ rsv0Field r.value = 0) ∧
      (rsv1Field r.mask = BitVec.allOnes 1 ∧ rsv1Field r.value = 0) ∧
      (rsv2Field r.mask = BitVec.allOnes 13 ∧ rsv2Field r.value = 0) := by decide

/-- Every row but that of DATA asks for zeros in LEN. -/
theorem lenField_of_mem_decodeRows : ∀ r ∈ decodeRows, opField r.value ≠ 2 →
    lenField r.mask = BitVec.allOnes 7 ∧ lenField r.value = 0 := by decide

/-- Every row but that of RDDIG asks for zeros in IDX. -/
theorem idxField_of_mem_decodeRows : ∀ r ∈ decodeRows, opField r.value ≠ 5 →
    idxField r.mask = BitVec.allOnes 3 ∧ idxField r.value = 0 := by decide

/-- The row of DATA asks for a LEN in range. -/
theorem DecodeRow.lenInRange_of_selects {r : DecodeRow} (hr : r ∈ decodeRows) {w : BitVec 32}
    (h : r.selects w = true) (hop : opField r.value = 2) : lenInRange (lenField w) = true := by
  obtain rfl : r = decodeRows[1] := decodeRow_eq_of_opField_eq hr (List.getElem_mem _) hop
  exact (Bool.and_eq_true_iff.mp h).2

/-- Every row but that of DATA builds the same command from any payload. -/
theorem DecodeRow.build_of_opField_ne {r : DecodeRow} (hr : r ∈ decodeRows)
    (hop : opField r.value ≠ 2) (n : BitVec 7) (i : BitVec 3) (p q : Block) :
    r.build n i p = r.build n i q := by
  simp only [decodeRows, List.mem_cons, List.not_mem_nil, or_false] at hr
  rcases hr with rfl | rfl | rfl | rfl | rfl | rfl
  case inr.inl => exact absurd (by decide) hop
  all_goals rfl

/-- A word with another OP than that of DATA decodes alike with any two payloads. -/
theorem decode_of_opField_ne {w : BitVec 32} (hop : opField w ≠ 2) (bus bus' : BitVec 512) :
    decode w bus = decode w bus' := by
  unfold decode
  cases hf : decodeRows.find? (fun r => r.selects w) with
  | none => rfl
  | some r =>
    have hr := List.mem_of_find?_eq_some hf
    have hsel : r.selects w = true := List.find?_some (p := fun r : DecodeRow => r.selects w) hf
    have hr2 : opField r.value ≠ 2 := r.opField_of_selects hr hsel ▸ hop
    exact congrArg Decoded.instr (r.build_of_opField_ne hr hr2 _ _ _ _)

/-! ### Illegal words (30_encoding R58, R60) -/

/-- `Legal(CMD)`, clause by clause. -/
theorem legal_iff (w : BitVec 32) : legal w = true ↔
    (rsv0Field w = 0 ∧ rsv1Field w = 0 ∧ rsv2Field w = 0) ∧
      (1 ≤ (opField w).toNat ∧ (opField w).toNat ≤ 6) ∧
      (opField w = 2 → lenInRange (lenField w) = true) ∧ (opField w ≠ 2 → lenField w = 0) ∧
      (opField w ≠ 5 → idxField w = 0) := by
  simp only [legal, Bool.and_eq_true, beq_iff_eq, decide_eq_true_eq, ite_eq_iff', and_assoc, ne_eq,
    implies_true, true_and]

/-- A word that is not legal is one of the kinds that 30_encoding R60 lists. -/
theorem legal_eq_false_iff (w : BitVec 32) : legal w = false ↔
    opField w = 0 ∨ 7 ≤ (opField w).toNat ∨
      rsv0Field w ≠ 0 ∨ rsv1Field w ≠ 0 ∨ rsv2Field w ≠ 0 ∨
      (opField w = 2 ∧ (lenField w = 0 ∨ 64 < (lenField w).toNat)) ∨
      (opField w ≠ 2 ∧ lenField w ≠ 0) ∨ (opField w ≠ 5 ∧ idxField w ≠ 0) := by
  have hop : (1 ≤ (opField w).toNat ∧ (opField w).toNat ≤ 6) ↔
      ¬ opField w = 0 ∧ ¬ 7 ≤ (opField w).toNat := by
    have hzero : opField w = 0 ↔ (opField w).toNat = 0 := BitVec.toNat_eq
    rw [hzero]
    omega
  have hlen : lenInRange (lenField w) = true ↔ ¬ (lenField w = 0 ∨ 64 < (lenField w).toNat) := by
    have hzero : lenField w = 0 ↔ (lenField w).toNat = 0 := BitVec.toNat_eq
    rw [hzero, lenInRange, Bool.and_eq_true, decide_eq_true_eq, decide_eq_true_eq]
    omega
  rw [← Bool.not_eq_true, legal_iff, hop, hlen]
  tauto

/-- A word that selects a row is legal. -/
theorem DecodeRow.legal_of_selects {r : DecodeRow} (hr : r ∈ decodeRows) {w : BitVec 32}
    (h : r.selects w = true) : legal w = true := by
  have hop : opField w = opField r.value := r.opField_of_selects hr h
  obtain ⟨⟨hm0, hv0⟩, ⟨hm1, hv1⟩, hm2, hv2⟩ := rsvFields_of_mem_decodeRows r hr
  rw [legal_iff, hop]
  refine ⟨⟨?_, ?_, ?_⟩, opField_value_of_mem_decodeRows r hr, r.lenInRange_of_selects hr h,
    fun hne => ?_, fun hne => ?_⟩
  · exact (r.extractLsb'_of_selects h hm0).trans hv0
  · exact (r.extractLsb'_of_selects h hm1).trans hv1
  · exact (r.extractLsb'_of_selects h hm2).trans hv2
  · obtain ⟨hm, hv⟩ := lenField_of_mem_decodeRows r hr hne
    exact (r.extractLsb'_of_selects h hm).trans hv
  · obtain ⟨hm, hv⟩ := idxField_of_mem_decodeRows r hr hne
    exact (r.extractLsb'_of_selects h hm).trans hv

/-- The decoder rejects a word that is not legal. -/
theorem decode_of_not_legal {w : BitVec 32} (hl : legal w = false) (bus : BitVec 512) :
    decode w bus = .illegal (illegalReason w) := by
  have hfind : decodeRows.find? (fun r => r.selects w) = none :=
    List.find?_eq_none.mpr fun r hr h => by simp [r.legal_of_selects hr h] at hl
  rw [decode, hfind]

end Sys2Proof

namespace Sys2Proof.Machine

/-! ### Payload bytes without effect (30_encoding R56) -/

/-- Payloads that agree on the first `n` bytes give DATA `n` the same stream bytes. -/
theorem dataBytes_congr {n : BitVec 7} {p q : Block}
    (h : ∀ (j : Nat) (hj : j < 64), j < n.toNat → p[j] = q[j]) : dataBytes n p = dataBytes n q := by
  refine List.ext_getElem (by simp [dataBytes]) fun j hj _ => ?_
  obtain ⟨hn, h64⟩ : j < n.toNat ∧ j < 64 := by simpa [dataBytes] using hj
  simpa [dataBytes] using h j h64 hn

/-- The session table does not read a payload (44_streaming R106). -/
theorem ifAllowed_data_congr (n : BitVec 7) (p q : Block) (s : State)
    (o : Host.Outcome State Fault Refusal) :
    ifAllowed (.data n p) s o = ifAllowed (.data n q) s o := rfl

/-- DATA reads its payload through its stream bytes only. -/
theorem exec_data_congr {n : BitVec 7} {p q : Block} (h : dataBytes n p = dataBytes n q)
    (s : State) : exec (.data n p) s = exec (.data n q) s := by
  simp only [exec, execData, h, ifAllowed_data_congr n p q]

/-- The engine answers a word with another OP than that of DATA alike with any two payloads. -/
theorem perform_of_opField_ne {w : BitVec 32} (hop : opField w ≠ 2) (bus bus' : BitVec 512)
    (s : State) : perform w bus s = perform w bus' s := by
  rw [perform, perform, decode_of_opField_ne hop bus bus']

/-- Settles O5: the lanes bit by bit; DATA reads `PAYLOAD[0..n)` only; no other row builds a command
with a payload. -/
theorem unusedPayloadHasNoEffect : Obligations.UnusedPayloadHasNoEffect :=
  ⟨fun bus _ _ hj hk => getLsbD_payloadOfBus bus hj hk,
    fun _ _ _ s h => exec_data_congr (dataBytes_congr h) s,
    fun _ bus bus' s hop => perform_of_opField_ne hop bus bus' s⟩

/-! ### The answer to an illegal word (30_encoding R60) -/

/-- The engine answers a word that is not legal with ILLEGAL. -/
theorem perform_of_not_legal {w : BitVec 32} (hl : legal w = false) (bus : BitVec 512) (s : State) :
    perform w bus s = .next s.respondIllegal := by
  rw [perform, decode_of_not_legal hl]

/-- The step that accepts a word that is not legal consumes the sample and answers ILLEGAL. -/
theorem step_of_not_legal {s : State} {p : PortInput} {rest : List PortInput}
    (hi : s.inputs = p :: rest) (hr : p.rst = false) (hv : s.rspValid = false)
    (hc : p.cmdValid = true) (hl : legal p.cmdWord = false) :
    step s = .next ((s.setInputs rest).respondIllegal.setRspValid (!p.rspReady)) := by
  rw [step_of_accepted hi hr hv hc, perform_of_not_legal hl]
  rfl

/-- Settles O44: each kind of word is not legal, a word that is not legal selects no row, and the
engine answers ILLEGAL. -/
theorem illegalWordChangesNothing : Obligations.IllegalWordChangesNothing :=
  fun _ p _ hi hr hv hc hkind =>
    step_of_not_legal hi hr hv hc ((legal_eq_false_iff p.cmdWord).mpr hkind)

end Sys2Proof.Machine

/-! SUPPORT. Proofs of the statements of 40_primitives.md. -/

namespace Sys2Proof.Machine

/-! ### Rotation, shift and sum (40_primitives R67 to R69) -/

/-- Bit `i` of a rotation comes from `n` bits further up, around the end of the word. -/
theorem getLsbD_rotr (x : Word) (n : Nat) {i : Nat} (hi : i < 32) :
    (rotr x n).getLsbD i = x.getLsbD ((i + n) % 32) := by
  rw [rotr, BitVec.getLsbD_rotateRight]
  by_cases h : i < 32 - n % 32
  · have hbit : n % 32 + i = (i + n) % 32 := by omega
    simp only [h, decide_true, cond_true, hbit]
  · have hbit : i - (32 - n % 32) = (i + n) % 32 := by omega
    simp only [h, hi, decide_true, decide_false, cond_false, Bool.true_and, hbit]

/-- The rotation count matters modulo 32 only. -/
theorem rotr_add_32 (x : Word) (n : Nat) : rotr x (n + 32) = rotr x n :=
  BitVec.eq_of_getLsbD_eq fun i hi => by
    rw [getLsbD_rotr x _ hi, getLsbD_rotr x _ hi, ← Nat.add_assoc, Nat.add_mod_right]

/-- A rotation by a multiple of 32 is none. -/
theorem rotr_of_mod_eq_zero (x : Word) {n : Nat} (h : n % 32 = 0) : rotr x n = x :=
  BitVec.eq_of_getLsbD_eq fun i hi => by
    have hbit : (i + n) % 32 = i := by omega
    rw [getLsbD_rotr x _ hi, hbit]

/-- A rotation on unbounded naturals: the bits shifted in at the left end wrap modulo 2^32. -/
theorem toNat_rotr (x : Word) (n : Nat) : (rotr x n).toNat =
    ((x.toNat >>> (n % 32)) ||| (x.toNat <<< (32 - n % 32))) % 2 ^ 32 := by
  have hlow : x.toNat >>> (n % 32) < 2 ^ 32 := (Nat.shiftRight_le _ _).trans_lt x.isLt
  rw [rotr, BitVec.toNat_rotateRight, Nat.or_mod_two_pow, Nat.mod_eq_of_lt hlow]

/-- Settles O6: both branches of the rotation, its period, and the worked example. -/
theorem rotrWraps : Obligations.RotrWraps := by
  refine ⟨fun x n => ?_, rotr_add_32, by decide⟩
  split
  next h => rw [rotr_of_mod_eq_zero x h]
  next => exact toNat_rotr x n

/-- The shift divides and drops the remainder. -/
theorem toNat_shr (x : Word) (n : Fin 32) : (shr x n).toNat = x.toNat / 2 ^ n.val := by
  rw [shr, BitVec.toNat_ushiftRight, Nat.shiftRight_eq_div_pow]

theorem toNat_add32 (x y : Word) : (add32 x y).toNat = (x.toNat + y.toNat) % 2 ^ 32 :=
  BitVec.toNat_add x y

/-- A running sum wraps once for all of its terms. -/
theorem toNat_foldl_add32 (x : Word) (ys : List Word) :
    (ys.foldl add32 x).toNat = (x.toNat + (ys.map BitVec.toNat).sum) % 2 ^ 32 := by
  induction ys generalizing x with
  | nil => exact (Nat.mod_eq_of_lt x.isLt).symm
  | cons y ys ih =>
    rw [List.foldl_cons, ih, toNat_add32, Nat.mod_add_mod, List.map_cons, List.sum_cons,
      Nat.add_assoc]

/-- Settles O7: the shift by its value, the sums by induction over the terms. -/
theorem shrDividesAddWraps : Obligations.ShrDividesAddWraps := ⟨toNat_shr, toNat_foldl_add32⟩

/-! ### Big-endian packing (40_primitives R71 to R73) -/

/-- Appending a byte at the low end is a base-256 digit more. -/
theorem toNat_append_byte {w : Nat} (x : BitVec w) (b : Byte) :
    (x ++ b).toNat = x.toNat * 2 ^ 8 + b.toNat := by
  rw [BitVec.toNat_append, ← Nat.shiftLeft_add_eq_or_of_lt b.isLt, Nat.shiftLeft_eq]

theorem toNat_packBE32 (b0 b1 b2 b3 : Byte) : (packBE32 b0 b1 b2 b3).toNat =
    b0.toNat * 2 ^ 24 + b1.toNat * 2 ^ 16 + b2.toNat * 2 ^ 8 + b3.toNat := by
  rw [packBE32, toNat_append_byte, toNat_append_byte, toNat_append_byte]
  ring

/-- A byte cut out of a value is its base-256 digit there. -/
theorem toNat_extractLsb'_byte {w : Nat} (v : BitVec w) (s : Nat) :
    (v.extractLsb' s 8).toNat = v.toNat / 2 ^ s % 256 := by
  rw [BitVec.extractLsb'_toNat, Nat.shiftRight_eq_div_pow]

/-- The four bytes are the base-256 digits of the word they make. -/
theorem unpackBE32_packBE32 (b0 b1 b2 b3 : Byte) :
    unpackBE32 (packBE32 b0 b1 b2 b3) = [b0, b1, b2, b3] := by
  have h0 := b0.isLt
  have h1 := b1.isLt
  have h2 := b2.isLt
  have h3 := b3.isLt
  simp only [unpackBE32, List.cons.injEq, and_true, BitVec.toNat_eq, toNat_extractLsb'_byte,
    toNat_packBE32]
  omega

/-- A word is the sum of its four base-256 digits. -/
theorem packBE32_extractLsb' (x : Word) :
    packBE32 (x.extractLsb' 24 8) (x.extractLsb' 16 8) (x.extractLsb' 8 8) (x.extractLsb' 0 8) =
      x := by
  have hx := x.isLt
  simp only [BitVec.toNat_eq, toNat_packBE32, toNat_extractLsb'_byte]
  omega

@[simp] theorem length_packBE64 (v : BitVec 64) : (packBE64 v).length = 8 := rfl

/-- Byte `k` of a 64-bit value, counted from the most significant. -/
theorem getD_packBE64 (v : BitVec 64) {k : Nat} (hk : k < 8) :
    (packBE64 v).getD k 0 = v.extractLsb' (56 - 8 * k) 8 := by
  interval_cases k <;> rfl

theorem toNat_getD_packBE64 (v : BitVec 64) {k : Nat} (hk : k < 8) :
    ((packBE64 v).getD k 0).toNat = v.toNat / 2 ^ (56 - 8 * k) % 256 := by
  rw [getD_packBE64 v hk, toNat_extractLsb'_byte]

/-- Settles O8: the packed value, the inverse in both directions, and the eight bytes. -/
theorem bigEndianPacking : Obligations.BigEndianPacking :=
  ⟨toNat_packBE32, unpackBE32_packBE32, fun x => ⟨_, _, _, _, rfl, packBE32_extractLsb' x⟩,
    fun v => ⟨length_packBE64 v, fun _ hk => toNat_getD_packBE64 v hk⟩⟩

/-! ### The mixing functions bit by bit (40_primitives R74 to R79) -/

/-- Bit `i` of a shift comes from `n` bits further up, and is 0 where the word has ended. -/
theorem getLsbD_shr (x : Word) (n : Fin 32) (i : Nat) :
    (shr x n).getLsbD i = (decide (i + n.val < 32) && x.getLsbD (i + n.val)) := by
  rw [shr, BitVec.getLsbD_ushiftRight, Nat.add_comm]
  by_cases h : i + n.val < 32
  · rw [decide_eq_true h, Bool.true_and]
  · rw [decide_eq_false h, Bool.false_and, BitVec.getLsbD_of_ge _ _ (Nat.le_of_not_lt h)]

/-- Every bit of an exclusive or of two rotations and a shift. -/
theorem getLsbD_xor_rotr_shr (x : Word) (l m : Nat) (n : Fin 32) {i : Nat} (hi : i < 32) :
    (rotr x l ^^^ rotr x m ^^^ shr x n).getLsbD i =
      ((x.getLsbD ((i + l) % 32) ^^ x.getLsbD ((i + m) % 32)) ^^
        (decide (i + n.val < 32) && x.getLsbD (i + n.val))) := by
  rw [BitVec.getLsbD_xor, BitVec.getLsbD_xor, getLsbD_rotr x l hi, getLsbD_rotr x m hi,
    getLsbD_shr]

/-- Settles O9: both small sigmas are an exclusive or of two rotations and a shift. -/
theorem smallSigmasBitwise : Obligations.SmallSigmasBitwise :=
  fun x _ hi => ⟨getLsbD_xor_rotr_shr x 7 18 3 hi, getLsbD_xor_rotr_shr x 17 19 10 hi⟩

/-- Every bit of an exclusive or of three rotations. -/
theorem getLsbD_xor_rotr (x : Word) (l m n : Nat) {i : Nat} (hi : i < 32) :
    (rotr x l ^^^ rotr x m ^^^ rotr x n).getLsbD i =
      ((x.getLsbD ((i + l) % 32) ^^ x.getLsbD ((i + m) % 32)) ^^ x.getLsbD ((i + n) % 32)) := by
  rw [BitVec.getLsbD_xor, BitVec.getLsbD_xor, getLsbD_rotr x l hi, getLsbD_rotr x m hi,
    getLsbD_rotr x n hi]

/-- Settles O10: both big sigmas are an exclusive or of three rotations. -/
theorem bigSigmasBitwise : Obligations.BigSigmasBitwise :=
  fun x _ hi => ⟨getLsbD_xor_rotr x 2 13 22 hi, getLsbD_xor_rotr x 6 11 25 hi⟩

/-- Choose selects: of its two terms, the one that the bit of `e` masks is 0. -/
theorem getLsbD_ch (e f g : Word) {i : Nat} (hi : i < 32) :
    (ch e f g).getLsbD i = if e.getLsbD i then f.getLsbD i else g.getLsbD i := by
  simp only [ch, BitVec.getLsbD_xor, BitVec.getLsbD_and, BitVec.getLsbD_not, hi, decide_true,
    Bool.true_and]
  cases e.getLsbD i <;> simp

theorem getLsbD_maj (a b c : Word) (i : Nat) : (maj a b c).getLsbD i =
    ((a.getLsbD i && b.getLsbD i) ^^ (a.getLsbD i && c.getLsbD i) ^^
      (b.getLsbD i && c.getLsbD i)) := by
  simp only [maj, BitVec.getLsbD_xor, BitVec.getLsbD_and]

/-- The exclusive or of the pairwise products is a majority vote. -/
theorem xor_and_eq_true_iff : ∀ p q r : Bool, ((p && q) ^^ (p && r) ^^ (q && r)) = true ↔
    2 ≤ ([p, q, r].filter id).length := by decide

/-- Settles O11: the bit of choose by the value of its selector, that of majority by its vote. -/
theorem chooseAndMajority : Obligations.ChooseAndMajority := by
  intro x y z i hi
  refine ⟨getLsbD_ch x y z hi, ?_⟩
  rw [getLsbD_maj]
  exact xor_and_eq_true_iff _ _ _

end Sys2Proof.Machine

/-! SUPPORT. Proofs of the statements of 41_schedule.md. -/

namespace Sys2Proof.Machine

/-! ### The schedule, word after word (41_schedule R84, R85) -/

/-- The first sixteen words are those of the block. -/
theorem getElem_copiedWords (blk : Block) {i : Nat} (hi : i < 16) :
    (copiedWords blk)[i] = packBE32 blk[4 * i] blk[4 * i + 1] blk[4 * i + 2] blk[4 * i + 3] := by
  simp [copiedWords, hi]

/-- The derived word: the recurrence over the words before it. -/
theorem getElem_deriveWord_self (w : Schedule) {i : Nat} (h16 : 16 ≤ i) (hi : i < 64) :
    (deriveWord w i)[i] =
      w[i - 16] + smallSigma0 w[i - 15] + w[i - 7] + smallSigma1 w[i - 2] := by
  simp [deriveWord, h16, hi, add32]

/-- Deriving a word leaves every other word alone. -/
theorem getElem_deriveWord_ne (w : Schedule) {i j : Nat} (hj : j < 64) (hij : i ≠ j) :
    (deriveWord w i)[j] = w[j] := by
  unfold deriveWord
  split
  next h => exact Vector.getElem_set_ne h.2 hj hij
  next => rfl

/-- The schedule when its first `n` derived words, `W[16]` to `W[15 + n]`, stand. -/
def partialSchedule (blk : Block) (n : Nat) : Schedule :=
  (List.range' 16 n).foldl deriveWord (copiedWords blk)

@[simp] theorem partialSchedule_zero (blk : Block) : partialSchedule blk 0 = copiedWords blk := rfl

theorem partialSchedule_succ (blk : Block) (n : Nat) :
    partialSchedule blk (n + 1) = deriveWord (partialSchedule blk n) (16 + n) := by
  simp [partialSchedule, List.range'_1_concat]

theorem schedule_eq_partialSchedule (blk : Block) : schedule blk = partialSchedule blk 48 := by
  unfold schedule
  rfl

/-- A word that stands is not written again. -/
theorem getElem_partialSchedule_of_le (blk : Block) {n m j : Nat} (hnm : n ≤ m) (hj : j < 64)
    (hjn : j < 16 + n) : (partialSchedule blk m)[j] = (partialSchedule blk n)[j] := by
  induction m, hnm using Nat.le_induction with
  | base => rfl
  | succ m hnm ih =>
    have hne : 16 + m ≠ j := by omega
    simp only [partialSchedule_succ, getElem_deriveWord_ne _ hj hne, ih]

/-- Every word that stands after `n` derivations is the word of the finished schedule. -/
theorem getElem_schedule (blk : Block) {n j : Nat} (hn : n ≤ 48) (hj : j < 16 + n) :
    (schedule blk)[j] = (partialSchedule blk n)[j] := by
  simp only [schedule_eq_partialSchedule]
  exact getElem_partialSchedule_of_le blk hn (by omega) hj

/-- The recurrence of the derived words, counted from `W[16]`. -/
theorem getElem_schedule_derived (blk : Block) {n : Nat} (hn : n < 48) :
    (schedule blk)[16 + n] =
      (schedule blk)[16 + n - 16] + smallSigma0 (schedule blk)[16 + n - 15] +
        (schedule blk)[16 + n - 7] + smallSigma1 (schedule blk)[16 + n - 2] := by
  have hearlier (j : Nat) (hj : j < 16 + n) : (schedule blk)[j] = (partialSchedule blk n)[j] :=
    getElem_schedule blk hn.le hj
  calc (schedule blk)[16 + n]
      = (partialSchedule blk (n + 1))[16 + n] := getElem_schedule blk hn (by omega)
    _ = (deriveWord (partialSchedule blk n) (16 + n))[16 + n] := by simp only [partialSchedule_succ]
    _ = _ := getElem_deriveWord_self _ (by omega) (by omega)
    _ = _ := by
      rw [hearlier (16 + n - 16) (by omega), hearlier (16 + n - 15) (by omega),
        hearlier (16 + n - 7) (by omega), hearlier (16 + n - 2) (by omega)]

/-- Settles O14: a copied word stands from the start; a derived word is computed from words that
stand, and no later derivation writes any of them. -/
theorem scheduleRecurrence : Obligations.ScheduleRecurrence := by
  refine fun blk => ⟨fun i hi => ?_, fun i hi h16 => ?_⟩
  · exact (getElem_schedule blk (Nat.zero_le 48) hi).trans (getElem_copiedWords blk hi)
  · obtain ⟨n, rfl⟩ := Nat.exists_eq_add_of_le h16
    exact getElem_schedule_derived blk (by omega)

end Sys2Proof.Machine

/-! SUPPORT. Proofs of the statements of 42_compression.md. -/

namespace Sys2Proof.Machine

/-! ### The rounds, one after another (42_compression R89, R91) -/

/-- The registers when the first `n` rounds, `0` to `n - 1`, are done. -/
def partialRounds (w : Schedule) (r : RoundRegs) (n : Nat) : RoundRegs :=
  ((List.finRange 64).take n).foldl (roundStep w) r

@[simp] theorem partialRounds_zero (w : Schedule) (r : RoundRegs) : partialRounds w r 0 = r := rfl

/-- The round after the first `t` is round `t`, on what they left. -/
theorem partialRounds_succ (w : Schedule) (r : RoundRegs) (t : Fin 64) :
    partialRounds w r (t.val + 1) = roundStep w (partialRounds w r t.val) t := by
  have hlt : t.val < (List.finRange 64).length := by simp
  have htake : (List.finRange 64).take (t.val + 1) = (List.finRange 64).take t.val ++ [t] := by
    rw [List.take_succ_eq_append_getElem hlt, List.getElem_finRange, Fin.cast_mk]
  rw [partialRounds, htake, List.foldl_concat, partialRounds]

theorem rounds_eq_partialRounds (w : Schedule) (r : RoundRegs) :
    rounds w r = partialRounds w r 64 := by
  rw [partialRounds, List.take_of_length_le (by simp), rounds]

theorem compressRegs_eq_partialRounds (h : HashState) (blk : Block) :
    compressRegs h blk = partialRounds (schedule blk) (initialRegs h) 64 := by
  rw [compressRegs, rounds_eq_partialRounds]

/-! ### The fold-back (42_compression R92) -/

/-- Each variable goes to the word of its position; `add32` is the sum of words modulo 2^32. -/
theorem toList_foldBack (h : HashState) (v : WorkVars) :
    (foldBack h v).toList =
      [h[0] + v.a, h[1] + v.b, h[2] + v.c, h[3] + v.d,
       h[4] + v.e, h[5] + v.f, h[6] + v.g, h[7] + v.h] := rfl

/-- Settles O16: the registers between the rounds are those of `partialRounds`, and the last of them
are folded back. -/
theorem compressionRunsRoundsInOrder : Obligations.CompressionRunsRoundsInOrder := by
  intro h blk
  refine ⟨partialRounds (schedule blk) (initialRegs h), ?_, partialRounds_succ _ _, ?_⟩
  · rw [partialRounds_zero, initialRegs]
  · rw [compressH, toList_foldBack, compressRegs_eq_partialRounds]

/-! ### One round (42_compression R90) -/

/-- Settles O15: the round writes its two temporaries, so they are the sums that its result holds. -/
theorem roundRotates : Obligations.RoundRotates :=
  fun w r t => ⟨(roundStep w r t).t1, (roundStep w r t).t2, rfl, rfl, rfl⟩

end Sys2Proof.Machine

/-! SUPPORT. Proofs of the statements of 43_padding.md. -/

namespace Sys2Proof.Machine

/-! ### The bytes of the closing blocks (43_padding R97 to R99) -/

theorem getElem_blockOfBytes (l : List Byte) {j : Nat} (hj : j < 64) :
    (blockOfBytes l)[j] = l.getD j 0 := by
  simp [blockOfBytes]

@[simp] theorem length_zeros (n : Nat) : (zeros n).length = n := List.length_replicate

theorem getD_zeros (n j : Nat) : (zeros n).getD j 0 = 0 :=
  List.getElem?_getD_replicate_default_eq 0 n j

/-- The trailing bytes, the mark, and zeros for however long. -/
theorem getD_append_mark_append_zeros (d : List Byte) (n j : Nat) :
    (d ++ [0x80] ++ zeros n).getD j 0 =
      if j < d.length then d.getD j 0 else if j = d.length then 0x80 else 0 := by
  rw [List.append_assoc]
  rcases lt_trichotomy j d.length with hlt | rfl | hgt
  · rw [List.getD_append _ _ _ _ hlt, if_pos hlt]
  · simp
  · obtain ⟨k, rfl⟩ := Nat.exists_eq_add_of_lt hgt
    rw [List.getD_append_right _ _ _ _ hgt.le, if_neg (by omega), if_neg (by omega), add_assoc,
      Nat.add_sub_cancel_left, List.singleton_append, List.getD_cons_succ, getD_zeros]

/-- Bytes 56 to 63 are the bit length, most significant byte first. -/
theorem getD_append_packBE64 (v : BitVec 64) {l : List Byte} (hl : l.length = 56) {j : Nat}
    (hj : j < 64) :
    (l ++ packBE64 v).getD j 0 = if j < 56 then l.getD j 0 else v.extractLsb' (8 * (63 - j)) 8 := by
  by_cases h56 : j < 56
  · rw [List.getD_append _ _ _ _ (by omega), if_pos h56]
  · rw [List.getD_append_right _ _ _ _ (by omega), getD_packBE64 v (by omega), if_neg h56]
    congr 1
    omega

theorem State.getD_pending (s : State) {j : Nat} (hj : j < 64) (hlt : j < s.fill.toNat) :
    s.pending.getD j 0 = s.buf[j] := by
  simp [State.pending, hj, hlt]

/-- A block of pending bytes and padding, byte by byte. -/
theorem State.getD_pending_append_mark_append_zeros {s : State} (hf : s.fill.toNat ≤ 63) (n : Nat)
    {j : Nat} (hj : j < 64) :
    (s.pending ++ [0x80] ++ zeros n).getD j 0 =
      if j < s.fill.toNat then s.buf[j] else if j = s.fill.toNat then 0x80 else 0 := by
  rw [getD_append_mark_append_zeros, s.length_pending hf]
  by_cases hlt : j < s.fill.toNat
  · rw [if_pos hlt, if_pos hlt, s.getD_pending hj hlt]
  · rw [if_neg hlt, if_neg hlt]

/-! ### How many closing blocks there are (43_padding R96) -/

theorem pad_of_length_le {d : List Byte} (hd : d.length ≤ 55) (nbits : BitVec 64) :
    pad d nbits = [blockOfBytes (d ++ [0x80] ++ zeros (55 - d.length) ++ packBE64 nbits)] := by
  have h : twoBlocks d.length = false := by simp [twoBlocks]; omega
  simp [pad, padBytes, h]

theorem pad_of_le_length {d : List Byte} (hd : 56 ≤ d.length) (nbits : BitVec 64) :
    pad d nbits = [blockOfBytes (d ++ [0x80] ++ zeros (63 - d.length)),
      blockOfBytes (zeros 56 ++ packBE64 nbits)] := by
  have h : twoBlocks d.length = true := by simp [twoBlocks, hd]
  simp [pad, padBytes, h]

/-! ### What END answers (44_streaming R111) -/

theorem exec_endCmd_of_absorb {s : State} (hs : s.sess = .absorb) (hf : s.fill.toNat ≤ 63) :
    exec .endCmd s = .next ((s.finalize.openAfterEnd.setSess .done).respond .ok 0) := by
  have hin : fillInRange s.fill = true := by simpa [fillInRange] using hf
  rw [exec, execEndCmd, ifAllowed_of_allowed (by simp [allowed, hs]), if_pos hin]

/-- Settles O26: the only closing block is the pending bytes, the mark, zeros and the bit length. -/
theorem endCompressesOnePaddingBlock : Obligations.EndCompressesOnePaddingBlock := by
  intro s hs h55
  have hf : s.fill.toNat ≤ 63 := by omega
  have hlen := s.length_pending hf
  have hpad := pad_of_length_le (hlen.trans_le h55) s.bitlen
  refine ⟨_, _, exec_endCmd_of_absorb hs hf, fun j hj => ?_,
    s.finalize_h.trans (by rw [hpad]; rfl), by simp⟩
  have h56 : (s.pending ++ [0x80] ++ zeros (55 - s.pending.length)).length = 56 := by
    simp [hlen]; omega
  rw [getElem_blockOfBytes, getD_append_packBE64 _ h56 hj,
    State.getD_pending_append_mark_append_zeros hf _ hj]
  by_cases hlow : j < 56
  · simp only [hlow, if_true]
  · rw [if_neg hlow, if_neg (by omega), if_neg (by omega), if_neg hlow]

/-- Settles O27: the pending bytes, the mark and zeros fill the first block; zeros and the bit length
the second. -/
theorem endCompressesTwoPaddingBlocks : Obligations.EndCompressesTwoPaddingBlocks := by
  intro s hs h56 hf
  have hpad := pad_of_le_length (h56.trans_eq (s.length_pending hf).symm) s.bitlen
  refine ⟨_, _, _, exec_endCmd_of_absorb hs hf, fun j hj => ?_, fun j hj => ?_,
    s.finalize_h.trans (by rw [hpad]; rfl), by simp⟩
  · rw [getElem_blockOfBytes, State.getD_pending_append_mark_append_zeros hf _ hj]
  · rw [getElem_blockOfBytes, getD_append_packBE64 _ (length_zeros 56) hj, getD_zeros]

end Sys2Proof.Machine

/-! SUPPORT. Proofs of the statements of 44_streaming.md. -/

namespace Sys2Proof.Machine

/-! ### The commands that every session allows (44_streaming R106, R107, R114) -/

theorem exec_init (s : State) : exec .init s = .next (s.beginSession.respond .ok 0) := by
  rw [exec, execInit, ifAllowed_of_allowed rfl]

theorem exec_rdstat (s : State) :
    exec .rdstat s = .next (s.respond .ok (statusWord s.sess s.fill)) := by
  rw [exec, execRdstat, ifAllowed_of_allowed rfl]

/-- Settles O18: INIT is allowed in every session, and what it leaves is the opened session. -/
theorem initStartsFreshSession : Obligations.InitStartsFreshSession := exec_init

/-! ### The STATUS word as a number (30_encoding R64) -/

theorem statusWord_of_ne_absorb {sess : Sess} (h : sess ≠ .absorb) (fill : BitVec 7) :
    statusWord sess fill = sess.code.setWidth 32 := by
  rw [statusWord, if_neg h]
  exact BitVec.or_zero

/-- In ABSORB the two fields do not overlap, so the word is their sum. -/
theorem toNat_statusWord_absorb (fill : BitVec 7) :
    (statusWord .absorb fill).toNat = 1 + 2 ^ 8 * fill.toNat := by
  have hfill : (fill.setWidth 32 <<< 8).toNat = fill.toNat <<< 8 := by
    rw [BitVec.toNat_shiftLeft, BitVec.toNat_setWidth_of_le (by decide)]
    exact Nat.mod_eq_of_lt (by rw [Nat.shiftLeft_eq]; omega)
  calc (statusWord .absorb fill).toNat
      = 1 ||| fill.toNat <<< 8 := by
        rw [statusWord, if_pos rfl, BitVec.toNat_or, hfill]; rfl
    _ = fill.toNat <<< 8 + 1 := by rw [Nat.or_comm, Nat.shiftLeft_add_eq_or_of_lt (by decide)]
    _ = 1 + 2 ^ 8 * fill.toNat := by rw [Nat.shiftLeft_eq]; omega

/-- Settles O31: the response is the STATUS word, whose value is read off session by session. -/
theorem rdstatReadsStatus : Obligations.RdstatReadsStatus := by
  refine fun s => ⟨statusWord s.sess s.fill, exec_rdstat s, ?_⟩
  cases s.sess with
  | absorb => exact toNat_statusWord_absorb s.fill
  | idle => rw [statusWord_of_ne_absorb (by decide)]; rfl
  | done => rw [statusWord_of_ne_absorb (by decide)]; rfl
  | failed => rw [statusWord_of_ne_absorb (by decide)]; rfl

end Sys2Proof.Machine

/-! SUPPORT. Proofs of the statements of 60_exceptions.md. -/

namespace Sys2Proof.Machine

/-! ### Samples without a transfer (70_reset_and_hazards R149, R150, R152) -/

/-- With nothing driven any more, a step waits. -/
theorem step_of_waiting {s : State} (h : nextEvent s = .waiting) : step s = .next s := by
  rw [step, portStep, h]

/-- A sample without a transfer is consumed, and nothing else happens. -/
theorem step_of_noTransfer {s : State} {rest : List PortInput}
    (h : nextEvent s = .noTransfer rest) : step s = .next (s.setInputs rest) := by
  rw [step, portStep, h]

/-- An engine that no sample makes do a transfer stays as it is, however long it runs. -/
theorem run_of_forall_noTransfer (k : Nat) {s : State}
    (h : ∀ p ∈ s.inputs, ∀ rest, nextEvent (s.setInputs (p :: rest)) = .noTransfer rest) :
    Host.Core.run Sys2Proof.core k s = .next (s.setInputs (s.inputs.drop k)) := by
  induction k generalizing s with
  | zero => rfl
  | succ k ih =>
    cases hi : s.inputs with
    | nil =>
      have hw : nextEvent s = .waiting := by rw [nextEvent, hi]
      rw [run_succ (step_of_waiting hw), ih h, hi, List.drop_nil, List.drop_nil]
    | cons p rest =>
      obtain ⟨hp, hrest⟩ := List.forall_mem_cons.mp (hi ▸ h)
      have hs : s.setInputs (p :: rest) = s := by rw [← hi]; rfl
      have hn : nextEvent s = .noTransfer rest := hs ▸ hp rest
      rw [run_succ (step_of_noTransfer hn), ih hrest]
      rfl

/-- A sample that offers neither a reset nor a command makes no transfer while no response is
pending. -/
theorem nextEvent_of_not_cmdValid {s : State} {p : PortInput} (hv : s.rspValid = false)
    (hr : p.rst = false) (hc : p.cmdValid = false) (rest : List PortInput) :
    nextEvent (s.setInputs (p :: rest)) = .noTransfer rest := by
  simp [nextEvent, hr, hv, hc]

/-- Settles O49: no sample makes a transfer, so every step only consumes its sample. -/
theorem waitingChangesNothing : Obligations.WaitingChangesNothing := by
  intro k s hv hidle
  refine run_of_forall_noTransfer k fun p hp => ?_
  obtain ⟨hr, hc⟩ := hidle p hp
  exact nextEvent_of_not_cmdValid hv hr hc

end Sys2Proof.Machine

/-! SUPPORT. Proofs of the statements of 70_reset_and_hazards.md. -/

namespace Sys2Proof.Machine

/-! ### A response that is never taken (70_reset_and_hazards R149, R150) -/

/-- While a response is pending, a sample that neither resets the engine nor takes the response makes
no transfer, even if it offers a command. -/
theorem nextEvent_of_not_rspReady {s : State} {p : PortInput} (hv : s.rspValid = true)
    (hr : p.rst = false) (hq : p.rspReady = false) (rest : List PortInput) :
    nextEvent (s.setInputs (p :: rest)) = .noTransfer rest := by
  simp [nextEvent, hr, hv, hq]

/-- Settles O48: the response stays pending, so no sample makes a transfer and every step only
consumes its sample. -/
theorem untakenResponseIsStuck : Obligations.UntakenResponseIsStuck := by
  rintro k s ⟨hv, hstuck⟩
  refine run_of_forall_noTransfer k fun p hp => ?_
  obtain ⟨hr, hq⟩ := hstuck p hp
  exact nextEvent_of_not_rspReady hv hr hq

end Sys2Proof.Machine

/-! SUPPORT. Proofs of the statements about the decoder (30_encoding.md R53 to R60). -/

namespace Sys2Proof

/-! ### Decoding an encoded command -/

/-- Settles O2: the encoded word of each command selects the command's own row, and that row alone. -/
theorem decodeOfEncode : Obligations.DecodeOfEncode := fun _ hw => decode_encodeWord hw

/-- Settles O4: for each word the row that it selects. -/
theorem writtenWordsDecode : Obligations.WrittenWordsDecode :=
  ⟨decode_of_selects (r := decodeRows[0]) (List.getElem_mem _) (by decide) _,
    decode_of_selects (r := decodeRows[1]) (List.getElem_mem _) (by decide) _,
    decode_of_selects (r := decodeRows[1]) (List.getElem_mem _) (by decide) _,
    decode_of_selects (r := decodeRows[2]) (List.getElem_mem _) (by decide) _,
    decode_of_selects (r := decodeRows[3]) (List.getElem_mem _) (by decide) _,
    decode_of_selects (r := decodeRows[4]) (List.getElem_mem _) (by decide) _,
    decode_of_selects (r := decodeRows[5]) (List.getElem_mem _) (by decide) _⟩

/-! ### A word is its six fields (30_encoding R54) -/

/-- The fields, put together again from the most significant. -/
theorem append_fields (w : BitVec 32) :
    rsv2Field w ++ (idxField w ++ (rsv1Field w ++ (lenField w ++ (rsv0Field w ++ opField w)))) = w := by
  simp (disch := rfl) only [rsv2Field, idxField, rsv1Field, lenField, rsv0Field, opField,
    BitVec.extractLsb'_append_extractLsb'_eq_extractLsb']
  exact BitVec.extractLsb'_eq_self

theorem word_ext {v w : BitVec 32} (hop : opField v = opField w) (h0 : rsv0Field v = rsv0Field w)
    (hlen : lenField v = lenField w) (h1 : rsv1Field v = rsv1Field w)
    (hidx : idxField v = idxField w) (h2 : rsv2Field v = rsv2Field w) : v = w := by
  rw [← append_fields v, ← append_fields w, hop, h0, hlen, h1, hidx, h2]

/-! ### A legal word selects the row of its OP, and no other (30_encoding R58, R59) -/

theorem exists_decodeRow_of_opField : ∀ op : BitVec 4, 1 ≤ op.toNat → op.toNat ≤ 6 →
    ∃ r ∈ decodeRows, opField r.value = op := by decide

/-- No row asks for a bit in LEN or IDX, and the rows of DATA and RDDIG leave their operand free. -/
theorem operandFields_of_mem_decodeRows : ∀ r ∈ decodeRows,
    (lenField r.value = 0 ∧ (opField r.value = 2 → lenField r.mask = 0)) ∧
      (idxField r.value = 0 ∧ (opField r.value = 5 → idxField r.mask = 0)) := by decide

/-- Only the row of DATA has a condition on LEN. -/
theorem DecodeRow.lenCondition_of_legal {r : DecodeRow} (hr : r ∈ decodeRows) {w : BitVec 32}
    (hl : legal w = true) (hop : opField w = opField r.value) :
    r.lenCondition (lenField w) = true := by
  obtain ⟨-, -, hlen, -⟩ := (legal_iff w).mp hl
  simp only [decodeRows, List.mem_cons, List.not_mem_nil, or_false] at hr
  rcases hr with rfl | rfl | rfl | rfl | rfl | rfl
  case inr.inl => exact hlen hop
  all_goals rfl

/-- A field that is zero in the word or in the mask is masked to zero. -/
theorem extractLsb'_and_eq_zero {w m : BitVec 32} {start len : Nat}
    (h : w.extractLsb' start len = 0#len ∨ m.extractLsb' start len = 0#len) :
    (w &&& m).extractLsb' start len = 0#len := by
  rw [BitVec.extractLsb'_and]
  rcases h with h | h
  · rw [h, BitVec.zero_and]
  · rw [h, BitVec.and_zero]

/-- A legal word, masked by the row of its OP, has that OP, and zero in every other field. -/
theorem DecodeRow.selects_of_legal {r : DecodeRow} (hr : r ∈ decodeRows) {w : BitVec 32}
    (hl : legal w = true) (hop : opField w = opField r.value) : r.selects w = true := by
  obtain ⟨⟨h0, h1, h2⟩, -, -, hlen, hidx⟩ := (legal_iff w).mp hl
  obtain ⟨⟨-, hv0⟩, ⟨-, hv1⟩, -, hv2⟩ := rsvFields_of_mem_decodeRows r hr
  obtain ⟨⟨hvlen, hmlen⟩, hvidx, hmidx⟩ := operandFields_of_mem_decodeRows r hr
  have hmop : opField (w &&& r.mask) = opField w := by
    calc opField (w &&& r.mask) = opField w &&& opField r.mask := BitVec.extractLsb'_and
      _ = opField w := by rw [opField_mask_of_mem_decodeRows r hr, BitVec.and_allOnes]
  have hlen0 : lenField w = 0 ∨ lenField r.mask = 0 := by
    by_cases h : opField r.value = 2
    · exact .inr (hmlen h)
    · exact .inl (hlen (hop ▸ h))
  have hidx0 : idxField w = 0 ∨ idxField r.mask = 0 := by
    by_cases h : opField r.value = 5
    · exact .inr (hmidx h)
    · exact .inl (hidx (hop ▸ h))
  have hval : w &&& r.mask = r.value :=
    word_ext (hmop.trans hop) ((extractLsb'_and_eq_zero (.inl h0)).trans hv0.symm)
      ((extractLsb'_and_eq_zero hlen0).trans hvlen.symm)
      ((extractLsb'_and_eq_zero (.inl h1)).trans hv1.symm)
      ((extractLsb'_and_eq_zero hidx0).trans hvidx.symm)
      ((extractLsb'_and_eq_zero (.inl h2)).trans hv2.symm)
  rw [selects, hval, beq_self_eq_true, r.lenCondition_of_legal hr hl hop, Bool.and_self]

/-- The decoder's answer comes from a row that the word selects. -/
theorem exists_selects_of_decode {w : BitVec 32} {bus : BitVec 512} {i : Instr}
    (h : decode w bus = .instr i) : ∃ r ∈ decodeRows, r.selects w = true ∧
      i = r.build (lenField w) (idxField w) (payloadOfBus bus) := by
  unfold decode at h
  cases hf : decodeRows.find? (fun r => r.selects w) with
  | none => simp [hf] at h
  | some r =>
    rw [hf] at h
    exact ⟨r, List.mem_of_find?_eq_some hf,
      List.find?_some (p := fun r : DecodeRow => r.selects w) hf, (Decoded.instr.inj h).symm⟩

/-- The decoder answers a legal word with a command. -/
theorem exists_decode_of_legal {w : BitVec 32} (hl : legal w = true) (bus : BitVec 512) :
    ∃ i, decode w bus = .instr i := by
  obtain ⟨-, ⟨h1, h6⟩, -⟩ := (legal_iff w).mp hl
  obtain ⟨r, hr, hop⟩ := exists_decodeRow_of_opField _ h1 h6
  exact ⟨_, decode_of_selects hr (r.selects_of_legal hr hl hop.symm) bus⟩

/-- The selected rows have the OP of the word, and no OP stands in two rows. -/
theorem length_filter_selects_le_one (w : BitVec 32) :
    (decodeRows.filter fun r => r.selects w).length ≤ 1 := by
  have hnodup : ((decodeRows.filter fun r => r.selects w).map fun r => opField r.value).Nodup :=
    List.Nodup.sublist (List.filter_sublist.map _) (by decide)
  have hsame : (decodeRows.filter fun r => r.selects w).map (fun r => opField r.value) =
      List.replicate (decodeRows.filter fun r => r.selects w).length (opField w) := by
    refine List.eq_replicate_iff.mpr ⟨List.length_map _, fun op hop => ?_⟩
    obtain ⟨r, hr, rfl⟩ := List.mem_map.mp hop
    obtain ⟨hmem, hsel⟩ := List.mem_filter.mp hr
    exact (r.opField_of_selects hmem hsel).symm
  rw [hsame] at hnodup
  exact List.nodup_replicate.mp hnodup

/-- Settles O1: a selected row makes the word legal, a legal word selects the row of its OP, and the
rows differ in OP. -/
theorem decoderFollowsLegal : Obligations.DecoderFollowsLegal := by
  refine fun w bus => ⟨⟨fun ⟨i, hi⟩ => ?_, fun hl => exists_decode_of_legal hl bus⟩,
    length_filter_selects_le_one w⟩
  obtain ⟨r, hr, hsel, -⟩ := exists_selects_of_decode hi
  exact r.legal_of_selects hr hsel

/-! ### A decoded command has no other word (30_encoding R53 to R57) -/

/-- The word of a command has its OP and zeros in the reserved fields. -/
theorem encodedFields (i : Instr) : Laws.EncodedFields.Statement i := by
  cases i with
  | init => exact Laws.EncodedFields.init
  | data n p => exact Laws.EncodedFields.data n p
  | endCmd => exact Laws.EncodedFields.endCmd
  | fail => exact Laws.EncodedFields.fail
  | rddig k => exact Laws.EncodedFields.rddig k
  | rdstat => exact Laws.EncodedFields.rdstat

/-- Only DATA has a LEN. -/
theorem lenField_encodeWord_of_opcodeOf_ne {i : Instr} (h : Laws.opcodeOf i ≠ 2) :
    lenField (encodeWord i) = 0 := by
  cases i with
  | data n p => exact absurd rfl h
  | rddig k =>
    clear h
    revert k
    simp only [encodeWord]
    decide
  | init => decide
  | endCmd => decide
  | fail => decide
  | rdstat => decide

/-- Only RDDIG has an IDX. -/
theorem idxField_encodeWord_of_opcodeOf_ne {i : Instr} (h : Laws.opcodeOf i ≠ 5) :
    idxField (encodeWord i) = 0 := by
  cases i with
  | rddig k => exact absurd rfl h
  | data n p =>
    clear h
    revert n
    simp only [encodeWord]
    decide
  | init => decide
  | endCmd => decide
  | fail => decide
  | rdstat => decide

/-- The row of DATA puts the LEN of the word into the command. -/
theorem DecodeRow.lenField_encodeWord_build {r : DecodeRow} (hr : r ∈ decodeRows)
    (hop : opField r.value = 2) (n : BitVec 7) (k : BitVec 3) (p : Block) :
    lenField (encodeWord (r.build n k p)) = n := by
  obtain rfl : r = decodeRows[1] := decodeRow_eq_of_opField_eq hr (List.getElem_mem _) hop
  exact lenField_encodeWord_data n p

/-- The row of RDDIG puts the IDX of the word into the command. -/
theorem DecodeRow.idxField_encodeWord_build {r : DecodeRow} (hr : r ∈ decodeRows)
    (hop : opField r.value = 5) (n : BitVec 7) (k : BitVec 3) (p : Block) :
    idxField (encodeWord (r.build n k p)) = k := by
  obtain rfl : r = decodeRows[4] := decodeRow_eq_of_opField_eq hr (List.getElem_mem _) hop
  exact idxField_encodeWord_rddig k

/-- Each row builds commands of its own OP. -/
theorem DecodeRow.opcodeOf_build {r : DecodeRow} (hr : r ∈ decodeRows) (n : BitVec 7)
    (k : BitVec 3) (p : Block) : Laws.opcodeOf (r.build n k p) = opField r.value := by
  simp only [decodeRows, List.mem_cons, List.not_mem_nil, or_false] at hr
  rcases hr with rfl | rfl | rfl | rfl | rfl | rfl <;> rfl

/-- The command that a word selects has the OP of the word. -/
theorem opcodeOf_of_decode {w : BitVec 32} {bus : BitVec 512} {i : Instr}
    (h : decode w bus = .instr i) : Laws.opcodeOf i = opField w := by
  obtain ⟨r, hr, hsel, rfl⟩ := exists_selects_of_decode h
  rw [r.opcodeOf_build hr, r.opField_of_selects hr hsel]

/-- The word of a decoded command agrees with the decoded word field by field. -/
theorem encodeWord_of_decode {w : BitVec 32} {bus : BitVec 512} {i : Instr}
    (h : decode w bus = .instr i) : encodeWord i = w := by
  have hcode : Laws.opcodeOf i = opField w := opcodeOf_of_decode h
  obtain ⟨hop, h0, h1, h2⟩ := encodedFields i
  obtain ⟨r, hr, hsel, rfl⟩ := exists_selects_of_decode h
  have hopr : opField w = opField r.value := r.opField_of_selects hr hsel
  obtain ⟨⟨l0, l1, l2⟩, -, -, hlen, hidx⟩ := (legal_iff w).mp (r.legal_of_selects hr hsel)
  refine word_ext (hop.trans hcode) (h0.trans l0.symm) ?_ (h1.trans l1.symm) ?_ (h2.trans l2.symm)
  · by_cases hdata : opField w = 2
    · exact r.lenField_encodeWord_build hr (hopr ▸ hdata) _ _ _
    · rw [lenField_encodeWord_of_opcodeOf_ne (hcode ▸ hdata), hlen hdata]
  · by_cases hrddig : opField w = 5
    · exact r.idxField_encodeWord_build hr (hopr ▸ hrddig) _ _ _
    · rw [idxField_encodeWord_of_opcodeOf_ne (hcode ▸ hrddig), hidx hrddig]

/-- The row of DATA checks its LEN; every other command is well formed. -/
theorem wellFormed_of_decode {w : BitVec 32} {bus : BitVec 512} {i : Instr}
    (h : decode w bus = .instr i) : i.wellFormed = true := by
  obtain ⟨r, hr, hsel, rfl⟩ := exists_selects_of_decode h
  have hlen := r.lenInRange_of_selects hr hsel
  simp only [decodeRows, List.mem_cons, List.not_mem_nil, or_false] at hr
  rcases hr with rfl | rfl | rfl | rfl | rfl | rfl
  case inr.inl => exact hlen (by decide)
  all_goals rfl

/-- The bus of the lanes of a bus is that bus (30_encoding R56). -/
theorem busOfPayload_payloadOfBus (bus : BitVec 512) : busOfPayload (payloadOfBus bus) = bus := by
  apply BitVec.eq_of_getLsbD_eq
  intro i hi
  have hlane : 63 - i / 8 < 64 := by omega
  have hbit : 504 - 8 * (63 - i / 8) + i % 8 = i := by omega
  calc (busOfPayload (payloadOfBus bus)).getLsbD i
      = ((payloadOfBus bus).toList.getD (63 - i / 8) 0).getLsbD (i % 8) := by
        rw [busOfPayload, getLsbD_foldl_bus _ _ (by simp) _ (by simpa using hi),
          Vector.length_toList]
    _ = ((payloadOfBus bus)[63 - i / 8]).getLsbD (i % 8) := by
        rw [List.getD_eq_getElem _ _ (by simpa using hlane), Vector.getElem_toList]
    _ = bus.getLsbD i := by rw [getLsbD_payloadOfBus bus hlane (by omega), hbit]

/-- A decoded DATA has the lanes of the bus as its payload. -/
theorem payload_of_decode {w : BitVec 32} {bus : BitVec 512} {n : BitVec 7} {p : Block}
    (h : decode w bus = .instr (.data n p)) : p = payloadOfBus bus := by
  obtain ⟨r, hr, -, hi⟩ := exists_selects_of_decode h
  simp only [decodeRows, List.mem_cons, List.not_mem_nil, or_false] at hr
  rcases hr with rfl | rfl | rfl | rfl | rfl | rfl
  case inr.inl => exact (Instr.data.inj hi).2
  all_goals cases hi

/-- Settles O3: the selected row gives back the fields, and the lanes give back the bus. -/
theorem decodeDeterminesWord : Obligations.DecodeDeterminesWord := by
  refine fun w bus i h => ⟨wellFormed_of_decode h, encodeWord_of_decode h, ?_⟩
  rintro n p rfl
  rw [encodeBus, payload_of_decode h, busOfPayload_payloadOfBus]

end Sys2Proof

/-! SUPPORT. Proofs of the statement about the constant tables (40_primitives.md R80 to R82). -/

namespace Sys2Proof.Machine

/-! ### The primes below 312 -/

/-- Trial division by 2 to 17, of the numbers whose square is at most `p`. -/
def survivesTrialDivision (p : Nat) : Bool :=
  2 ≤ p && (List.range 18).all fun m => decide (m < 2) || decide (p < m * m) || !decide (m ∣ p)

/-- Below 18² a number without a divisor up to 17 is prime. -/
theorem prime_iff_survivesTrialDivision {p : Nat} (hp : p < 18 * 18) :
    p.Prime ↔ survivesTrialDivision p = true := by
  simp only [Nat.prime_def_le_sqrt, Nat.le_sqrt, survivesTrialDivision, Bool.and_eq_true,
    decide_eq_true_eq, List.all_eq_true, List.mem_range, Bool.or_eq_true, Bool.not_eq_true',
    decide_eq_false_iff_not]
  refine and_congr_right fun _ => ⟨fun h m _ => ?_, fun h m h2 hm => ?_⟩
  · by_cases h2 : m < 2
    · exact .inl (.inl h2)
    · by_cases hm : p < m * m
      · exact .inl (.inr hm)
      · exact .inr (h m (by omega) (by omega))
  · have h18 : m < 18 := Nat.mul_self_lt_mul_self_iff.mp (hm.trans_lt hp)
    rcases h m h18 with (hlt | hlt) | hdvd
    · omega
    · omega
    · exact hdvd

/-- The list of 40_primitives R82 is every prime below 312. -/
theorem firstPrimes_eq_filter_prime :
    firstPrimes = (List.range 312).filter fun p => decide p.Prime := by
  calc firstPrimes = (List.range 312).filter survivesTrialDivision := by decide +kernel
    _ = (List.range 312).filter fun p => decide p.Prime := by
      refine List.filter_congr fun p hp => ?_
      have hlt : p < 312 := List.mem_range.mp hp
      rw [Bool.eq_iff_iff, decide_eq_true_iff,
        prime_iff_survivesTrialDivision (hlt.trans (by decide))]

/-! ### The roots (40_primitives R82) -/

/-- The whole part of the `k`-th root of a prime of the list, which is below 18. -/
def wholeRoot (k p : Nat) : Nat := (List.range 17).countP fun c => (c + 1) ^ k ≤ p

/-- `r` is the `k`-th root of `n`, rounded down. -/
def IsFloorRoot (k n r : Nat) : Prop := r ^ k ≤ n ∧ n < (r + 1) ^ k

/-- Each word of `H0` is the fraction that follows the whole part of its square root. -/
theorem isFloorRoot_H0 : ∀ i : Fin 8,
    IsFloorRoot 2 (firstPrimes.getD i 0 * 2 ^ 64)
      (wholeRoot 2 (firstPrimes.getD i 0) * 2 ^ 32 + H0[i].toNat) := by
  unfold IsFloorRoot
  decide +kernel

/-- Each word of `K` is the fraction that follows the whole part of its cube root. -/
theorem isFloorRoot_K : ∀ t : Fin 64,
    IsFloorRoot 3 (firstPrimes.getD t 0 * 2 ^ 96)
      (wholeRoot 3 (firstPrimes.getD t 0) * 2 ^ 32 + K[t].toNat) := by
  unfold IsFloorRoot
  decide +kernel

/-- The fraction of a root is its lower 32 bits. -/
theorem toNat_eq_whole_add_mod (c : Nat) (w : Word) : w.toNat = (c * 2 ^ 32 + w.toNat) % 2 ^ 32 := by
  rw [Nat.mul_add_mod_self_right, Nat.mod_eq_of_lt w.isLt]

/-- Settles O12: the list by trial division; each root is its whole part and the word of the table. -/
theorem tablesAreRootsOfPrimes : Obligations.TablesAreRootsOfPrimes := by
  refine ⟨firstPrimes_eq_filter_prime, by decide, fun i hi => ?_, fun t ht => ?_⟩
  · obtain ⟨hle, hlt⟩ := isFloorRoot_H0 ⟨i, hi⟩
    exact ⟨_, hle, hlt, toNat_eq_whole_add_mod _ _⟩
  · obtain ⟨hle, hlt⟩ := isFloorRoot_K ⟨t, ht⟩
    exact ⟨_, hle, hlt, toNat_eq_whole_add_mod _ _⟩

end Sys2Proof.Machine

/-! SUPPORT. Proofs of the statements about padding (43_padding.md R96 to R104). -/

namespace Sys2Proof.Machine

/-! ### The closing blocks as bytes -/

theorem padBytes_of_length_le {d : List Byte} (hd : d.length ≤ 55) (nbits : BitVec 64) :
    padBytes d nbits = [d ++ [0x80] ++ zeros (55 - d.length) ++ packBE64 nbits] := by
  have h : twoBlocks d.length = false := by simp [twoBlocks]; omega
  simp [padBytes, h]

theorem padBytes_of_le_length {d : List Byte} (hd : 56 ≤ d.length) (nbits : BitVec 64) :
    padBytes d nbits =
      [d ++ [0x80] ++ zeros (63 - d.length), zeros 56 ++ packBE64 nbits] := by
  have h : twoBlocks d.length = true := by simp [twoBlocks, hd]
  simp [padBytes, h]

theorem zeros_append_zeros (m n : Nat) : zeros m ++ zeros n = zeros (m + n) :=
  List.replicate_append_replicate

theorem toList_blockOfBytes {l : List Byte} (hl : l.length = 64) : (blockOfBytes l).toList = l := by
  refine List.ext_getElem (by simp [hl]) fun j _ hj => ?_
  rw [Vector.getElem_toList, getElem_blockOfBytes l (hl ▸ hj), List.getD_eq_getElem _ _ hj]

theorem length_of_mem_padBytes {d : List Byte} (hd : d.length ≤ 63) (nbits : BitVec 64) :
    ∀ b ∈ padBytes d nbits, b.length = 64 := by
  by_cases h55 : d.length ≤ 55
  · rw [padBytes_of_length_le h55]
    simp
    omega
  · rw [padBytes_of_le_length (by omega)]
    simp
    omega

/-- Settles O17: one block up to 55 bytes, and from 56 on the zeros run over the end of the first. -/
theorem paddingIsWholeBlocks : Obligations.PaddingIsWholeBlocks := by
  intro d nbits hd
  have hlen := length_of_mem_padBytes hd nbits
  refine ⟨hlen, ?_, ?_, rfl, fun b hb => toList_blockOfBytes (hlen b hb)⟩
  · by_cases h55 : d.length ≤ 55
    · rw [padBytes_of_length_le h55, if_pos h55]
      rfl
    · rw [padBytes_of_le_length (by omega), if_neg h55]
      rfl
  · by_cases h55 : d.length ≤ 55
    · rw [padBytes_of_length_le h55, if_pos h55, List.flatten_singleton]
      rfl
    · have hzeros : 63 - d.length + 56 = 119 - d.length := by omega
      rw [padBytes_of_le_length (by omega), if_neg h55, List.flatten_cons, List.flatten_singleton,
        List.append_assoc, ← List.append_assoc (zeros _), zeros_append_zeros, hzeros,
        ← List.append_assoc]
      rfl

/-! ### Stale bytes (43_padding R104) -/

/-- The pending bytes are those below `FILL`. -/
theorem State.pending_congr {s₁ s₂ : State} (hfill : s₁.fill = s₂.fill)
    (hbuf : ∀ (j : Nat) (hj : j < 64), j < s₁.fill.toNat → s₁.buf[j] = s₂.buf[j]) :
    s₁.pending = s₂.pending := by
  refine List.ext_getElem (by simp [State.pending, hfill]) fun j hj _ => ?_
  obtain ⟨hlt, h64⟩ : j < s₁.fill.toNat ∧ j < 64 := by simpa [State.pending] using hj
  simpa [State.pending] using hbuf j h64 hlt

/-- Settles O28: the finalizer reads `H`, `BITLEN` and the pending bytes only. -/
theorem noStaleBufferByte : Obligations.NoStaleBufferByte := by
  intro s₁ s₂ hs₁ hs₂ hh hbit hfill hf hbuf
  refine ⟨_, _, exec_endCmd_of_absorb hs₁ hf, exec_endCmd_of_absorb hs₂ (hfill ▸ hf), ?_⟩
  calc s₁.finalize.h = (pad s₁.pending s₁.bitlen).foldl compressH s₁.h := s₁.finalize_h
    _ = (pad s₂.pending s₂.bitlen).foldl compressH s₂.h := by
      rw [State.pending_congr hfill hbuf, hbit, hh]
    _ = s₂.finalize.h := s₂.finalize_h.symm

end Sys2Proof.Machine

/-! SUPPORT. Proofs of the statements about DATA (44_streaming.md R108 to R110). -/

namespace Sys2Proof.Machine

/-! ### What DATA answers, check by check (44_streaming R108, R110; 60_exceptions R135) -/

theorem lenInRange_eq_true_iff (n : BitVec 7) :
    lenInRange n = true ↔ 1 ≤ n.toNat ∧ n.toNat ≤ 64 := by
  simp [lenInRange]

theorem lengthAdmitted_eq_true_iff (bitlen : BitVec 64) (n : BitVec 7) :
    lengthAdmitted bitlen n = true ↔ bitlen.toNat + 8 * n.toNat ≤ 2 ^ 64 - 8 := by
  simp [lengthAdmitted]

theorem fillInRange_eq_true_iff (fill : BitVec 7) : fillInRange fill = true ↔ fill.toNat ≤ 63 := by
  simp [fillInRange]

/-- A DATA term that no legal word encodes. -/
theorem exec_data_of_not_lenInRange {n : BitVec 7} (hn : lenInRange n = false) (p : Block)
    (s : State) : exec (.data n p) s = .next s.respondIllegal := by
  simp [exec, execData, hn]

/-- A DATA in an open session comes to the length bound and the buffer. -/
theorem exec_data_of_absorb {n : BitVec 7} (hn : lenInRange n = true) (p : Block) {s : State}
    (hs : s.sess = .absorb) :
    exec (.data n p) s =
      if lengthAdmitted s.bitlen n then
        if fillInRange s.fill then .next ((s.absorbBytes (dataBytes n p)).respond .ok 0)
        else .fault .fillOutOfRange
      else .refused .lengthOverflow := by
  rw [exec, execData, if_pos hn, ifAllowed_of_allowed (by simp [allowed, hs])]

theorem exec_data_of_admitted {n : BitVec 7} (h1 : 1 ≤ n.toNat) (h64 : n.toNat ≤ 64) (p : Block)
    {s : State} (hs : s.sess = .absorb) (hl : s.bitlen.toNat + 8 * n.toNat ≤ 2 ^ 64 - 8)
    (hf : s.fill.toNat ≤ 63) :
    exec (.data n p) s = .next ((s.absorbBytes (dataBytes n p)).respond .ok 0) := by
  rw [exec_data_of_absorb ((lenInRange_eq_true_iff n).mpr ⟨h1, h64⟩) p hs,
    if_pos ((lengthAdmitted_eq_true_iff _ _).mpr hl), if_pos ((fillInRange_eq_true_iff _).mpr hf)]

theorem exec_data_of_full {n : BitVec 7} (h1 : 1 ≤ n.toNat) (h64 : n.toNat ≤ 64) (p : Block)
    {s : State} (hs : s.sess = .absorb) (hl : s.bitlen.toNat + 8 * n.toNat ≤ 2 ^ 64 - 8)
    (hf : 63 < s.fill.toNat) : exec (.data n p) s = .fault .fillOutOfRange := by
  rw [exec_data_of_absorb ((lenInRange_eq_true_iff n).mpr ⟨h1, h64⟩) p hs,
    if_pos ((lengthAdmitted_eq_true_iff _ _).mpr hl),
    if_neg ((fillInRange_eq_true_iff _).not.mpr (by omega))]

theorem exec_data_of_overflow {n : BitVec 7} (h1 : 1 ≤ n.toNat) (h64 : n.toNat ≤ 64) (p : Block)
    {s : State} (hs : s.sess = .absorb) (hl : 2 ^ 64 - 8 < s.bitlen.toNat + 8 * n.toNat) :
    exec (.data n p) s = .refused .lengthOverflow := by
  rw [exec_data_of_absorb ((lenInRange_eq_true_iff n).mpr ⟨h1, h64⟩) p hs,
    if_neg ((lengthAdmitted_eq_true_iff _ _).not.mpr (by omega))]

theorem exec_endCmd_of_full {s : State} (hs : s.sess = .absorb) (hf : 63 < s.fill.toNat) :
    exec .endCmd s = .fault .fillOutOfRange := by
  rw [exec, execEndCmd, ifAllowed_of_allowed (by simp [allowed, hs]),
    if_neg ((fillInRange_eq_true_iff _).not.mpr (by omega))]

/-- Settles O24: the count is checked before everything else. -/
theorem illFormedDataAnswersIllegal : Obligations.IllFormedDataAnswersIllegal := by
  intro s n p hn
  have hlen : lenInRange n = false := by
    rw [← Bool.not_eq_true, lenInRange_eq_true_iff]
    omega
  exact exec_data_of_not_lenInRange hlen p s

/-- Settles O25: in an open session END and an admitted DATA come to the check of `FILL`. -/
theorem fullBufferFaults : Obligations.FullBufferFaults :=
  fun _ hs hf => ⟨exec_endCmd_of_full hs hf,
    fun _ p h1 h64 hl => exec_data_of_full h1 h64 p hs hl hf⟩

/-! ### Bytes appended to the buffer (44_streaming R109) -/

/-- `buf` with the bytes `xs` written from index `k` on. -/
def writeBytes (buf : Block) (k : Nat) (xs : List Byte) : Block :=
  Vector.ofFn fun j => if k ≤ j.val ∧ j.val < k + xs.length then xs.getD (j.val - k) 0 else buf[j]

theorem getElem_writeBytes (buf : Block) (k : Nat) (xs : List Byte) {j : Nat} (hj : j < 64) :
    (writeBytes buf k xs)[j] =
      if k ≤ j ∧ j < k + xs.length then xs.getD (j - k) 0 else buf[j] := by
  simp [writeBytes]

@[simp] theorem writeBytes_nil (buf : Block) (k : Nat) : writeBytes buf k [] = buf := by
  refine Vector.ext fun j hj => ?_
  rw [getElem_writeBytes _ _ _ hj, if_neg]
  simp

/-- One byte more is one write more, behind the others. -/
theorem writeBytes_concat (buf : Block) (k : Nat) (xs : List Byte) (x : Byte) :
    writeBytes buf k (xs ++ [x]) = (writeBytes buf k xs).setIfInBounds (k + xs.length) x := by
  refine Vector.ext fun j hj => ?_
  rw [getElem_writeBytes _ _ _ hj, Vector.getElem_setIfInBounds hj, getElem_writeBytes _ _ _ hj,
    List.length_append, List.length_singleton]
  rcases lt_trichotomy j (k + xs.length) with hlt | heq | hgt
  · rw [if_neg (show ¬ k + xs.length = j by omega)]
    by_cases hk : k ≤ j
    · rw [if_pos (by omega), if_pos ⟨hk, hlt⟩, List.getD_append _ _ _ _ (by omega)]
    · rw [if_neg (by omega), if_neg (by omega)]
  · have hidx : j - k = xs.length := by omega
    rw [if_pos heq.symm, if_pos (by omega), hidx, List.getD_append_right _ _ _ _ le_rfl,
      Nat.sub_self, List.getD_cons_zero]
  · rw [if_neg (by omega), if_neg (by omega), if_neg (by omega)]

namespace State

/-- The bytes `xs` appended to the buffer, with `FILL` and `BITLEN` advanced, and no block
compressed. -/
def appendBytes (s : State) (xs : List Byte) : State :=
  { s with
    buf := writeBytes s.buf s.fill.toNat xs
    fill := s.fill + BitVec.ofNat 7 xs.length
    bitlen := s.bitlen + BitVec.ofNat 64 (8 * xs.length) }

section
variable (s : State) (xs : List Byte)

@[simp] theorem appendBytes_buf :
    (s.appendBytes xs).buf = writeBytes s.buf s.fill.toNat xs := rfl
@[simp] theorem appendBytes_fill :
    (s.appendBytes xs).fill = s.fill + BitVec.ofNat 7 xs.length := rfl

theorem appendBytes_nil : s.appendBytes [] = s := by
  simp [appendBytes]

theorem toNat_appendBytes_fill (hf : s.fill.toNat + xs.length ≤ 64) :
    (s.appendBytes xs).fill.toNat = s.fill.toNat + xs.length := by
  simp only [appendBytes_fill, BitVec.toNat_add, BitVec.toNat_ofNat]
  omega

/-- Appending a byte more is pushing it. -/
theorem appendBytes_concat (x : Byte) (hf : s.fill.toNat + xs.length < 64) :
    s.appendBytes (xs ++ [x]) = (s.appendBytes xs).pushByte x := by
  have hfill : s.fill + BitVec.ofNat 7 (xs.length + 1) = s.fill + BitVec.ofNat 7 xs.length + 1 := by
    rw [BitVec.ofNat_add, BitVec.add_assoc]
    rfl
  have hbit : s.bitlen + BitVec.ofNat 64 (8 * (xs.length + 1)) =
      s.bitlen + BitVec.ofNat 64 (8 * xs.length) + 8 := by
    rw [Nat.mul_add, BitVec.ofNat_add, BitVec.add_assoc]
    rfl
  rw [pushByte, toNat_appendBytes_fill s xs hf.le]
  simp only [appendBytes, writeBytes_concat, List.length_append, List.length_singleton, hfill, hbit]

/-- AbsorbByte is a push for as long as the buffer has room. -/
theorem absorbBytes_of_lt (hf : s.fill.toNat + xs.length < 64) :
    s.absorbBytes xs = s.appendBytes xs := by
  induction xs using List.reverseRecOn with
  | nil => rw [absorbBytes_nil, appendBytes_nil]
  | append_singleton xs x ih =>
    rw [List.length_append, List.length_singleton] at hf
    have hroom : (s.appendBytes xs).fill.toNat = s.fill.toNat + xs.length :=
      s.toNat_appendBytes_fill xs (by omega)
    rw [absorbBytes_append, ih (by omega), appendBytes_concat s xs x (by omega), absorbBytes_cons,
      absorbBytes_nil]
    rcases (s.appendBytes xs).absorbByte_cases x with ⟨h64, -⟩ | ⟨-, h⟩
    · rw [pushByte_fill_eq_64] at h64
      omega
    · exact h

/-- The byte that fills the buffer makes it a block, which is compressed. -/
theorem absorbBytes_of_eq (hf : s.fill.toNat + xs.length = 64) (hne : s.fill.toNat ≤ 63) :
    s.absorbBytes xs = ((s.appendBytes xs).compress (s.appendBytes xs).buf).emptyBuffer := by
  have hxs : xs ≠ [] := by
    rintro rfl
    rw [List.length_nil] at hf
    omega
  obtain ⟨ys, x, rfl⟩ := List.eq_nil_or_concat xs |>.resolve_left hxs
  rw [List.concat_eq_append] at hf ⊢
  rw [List.length_append, List.length_singleton] at hf
  have hroom : (s.appendBytes ys).fill.toNat = s.fill.toNat + ys.length :=
    s.toNat_appendBytes_fill ys (by omega)
  rw [absorbBytes_append, absorbBytes_of_lt s ys (by omega), appendBytes_concat s ys x (by omega),
    absorbBytes_cons, absorbBytes_nil]
  rcases (s.appendBytes ys).absorbByte_cases x with ⟨-, h⟩ | ⟨h64, -⟩
  · exact h
  · rw [ne_eq, pushByte_fill_eq_64] at h64
    omega

end

end State

/-! ### DATA that does not fill the buffer -/

theorem length_dataBytes {n : BitVec 7} (h64 : n.toNat ≤ 64) (p : Block) :
    (dataBytes n p).length = n.toNat := by
  simp [dataBytes, h64]

theorem getD_take_of_lt (l : List Byte) {m j : Nat} (hj : j < m) :
    (l.take m).getD j 0 = l.getD j 0 := by
  rw [List.getD_eq_getElem?_getD, List.getElem?_take_of_lt hj, List.getD_eq_getElem?_getD]

theorem getD_drop (l : List Byte) (m j : Nat) : (l.drop m).getD j 0 = l.getD (m + j) 0 := by
  rw [List.getD_eq_getElem?_getD, List.getElem?_drop, List.getD_eq_getElem?_getD]

theorem getD_dataBytes {n : BitVec 7} (p : Block) {j : Nat} (hj : j < n.toNat) :
    (dataBytes n p).getD j 0 = p.toList.getD j 0 := getD_take_of_lt _ hj

/-- A sum that stays in range is the sum of the numbers. -/
theorem add_ofNat_eq_ofNat {w : Nat} (x : BitVec w) (n : Nat) :
    x + BitVec.ofNat w n = BitVec.ofNat w (x.toNat + n) := by
  rw [BitVec.ofNat_add, BitVec.ofNat_toNat, BitVec.setWidth_eq]

/-- Settles O20: the buffer has room for every byte, so DATA appends them. -/
theorem dataAppendsBytes : Obligations.DataAppendsBytes := by
  intro s n p hs h1 h64 hl hf
  have hlen := length_dataBytes h64 p
  refine ⟨writeBytes s.buf s.fill.toNat (dataBytes n p), ?_, fun j hj => ?_⟩
  · rw [exec_data_of_admitted h1 h64 p hs hl (by omega),
      State.absorbBytes_of_lt s _ (by omega), State.appendBytes, hlen, add_ofNat_eq_ofNat,
      add_ofNat_eq_ofNat]
    rfl
  · rw [getElem_writeBytes _ _ _ hj, hlen]
    refine ite_congr rfl (fun hin => ?_) fun _ => rfl
    exact getD_dataBytes p (by omega)

/-! ### DATA that fills the buffer -/

/-- The bytes up to the boundary complete a block, and the others start the next one. -/
theorem State.absorbBytes_of_completes {s : State} {xs : List Byte} (hf : s.fill.toNat ≤ 63)
    (h64 : 64 ≤ s.fill.toNat + xs.length) (hlt : s.fill.toNat + xs.length < 128) :
    s.absorbBytes xs =
      ((((s.appendBytes (xs.take (64 - s.fill.toNat))).compress
        (writeBytes s.buf s.fill.toNat (xs.take (64 - s.fill.toNat)))).emptyBuffer).appendBytes
          (xs.drop (64 - s.fill.toNat))) := by
  have htake : (xs.take (64 - s.fill.toNat)).length = 64 - s.fill.toNat :=
    List.length_take_of_le (by omega)
  conv_lhs => rw [← List.take_append_drop (64 - s.fill.toNat) xs]
  rw [absorbBytes_append, s.absorbBytes_of_eq _ (by omega) hf, appendBytes_buf]
  have hzero : (0 : BitVec 7).toNat = 0 := rfl
  refine absorbBytes_of_lt _ _ ?_
  rw [emptyBuffer_fill, hzero, List.length_drop]
  omega

/-- Settles O21: the first `64 - FILL` bytes complete the block, and the rest are appended to an empty
buffer. -/
theorem dataCompressesCompletedBlock : Obligations.DataCompressesCompletedBlock := by
  intro s n p hs h1 h64 hl hf hfull
  have hlen := length_dataBytes h64 p
  have hblock := State.absorbBytes_of_completes (xs := dataBytes n p) hf (by omega) (by omega)
  have hfill := s.absorbBytes_fill (dataBytes n p) hf
  have hzero : (0 : BitVec 7).toNat = 0 := rfl
  have hrest : (s.fill.toNat + n.toNat) % 64 = s.fill.toNat + n.toNat - 64 := by omega
  rw [hlen, hrest] at hfill
  refine ⟨_, writeBytes s.buf s.fill.toNat ((dataBytes n p).take (64 - s.fill.toNat)),
    exec_data_of_admitted h1 h64 p hs hl hf, fun j hj => ?_, ?_, ?_, ?_, fun j hj hjf => ?_, ?_⟩
  · rw [getElem_writeBytes _ _ _ hj, List.length_take_of_le (by omega)]
    by_cases hlow : j < s.fill.toNat
    · rw [if_neg (by omega), if_pos hlow]
    · rw [if_pos (by omega), if_neg hlow, getD_take_of_lt _ (by omega),
        getD_dataBytes p (by omega)]
  · rw [State.respond_h, hblock]
    rfl
  · rw [State.respond_fill]
    exact BitVec.eq_of_toNat_eq (by rw [hfill, BitVec.toNat_ofNat]; omega)
  · rw [State.respond_bitlen, State.absorbBytes_bitlen, hlen, add_ofNat_eq_ofNat]
  · rw [State.respond_fill, hfill] at hjf
    rw [State.respond_buf]
    simp only [hblock, State.appendBytes_buf]
    rw [getElem_writeBytes _ _ _ hj, State.emptyBuffer_fill, hzero, List.length_drop,
      if_pos (by omega), getD_drop, Nat.sub_zero]
    exact getD_dataBytes p (by omega)
  · simp [hs]

/-! ### DATA past the length bound (44_streaming R110, R117) -/

/-- The step that accepts the word of `i`. -/
theorem step_of_decode {s : State} {p : PortInput} {rest : List PortInput} {i : Instr}
    (hi : s.inputs = p :: rest) (hr : p.rst = false) (hv : s.rspValid = false)
    (hc : p.cmdValid = true) (hd : decode p.cmdWord p.cmdPayload = .instr i) :
    step s = finishCommand p.rspReady (s.setInputs rest) (exec i (s.setInputs rest)) := by
  rw [step_of_accepted hi hr hv hc, perform, hd]

/-- The step that accepts a command past the length bound sets the mark and makes no other change. -/
theorem step_of_overflow {s : State} {q : PortInput} {rest : List PortInput} {i : Instr}
    (hi : s.inputs = q :: rest) (hr : q.rst = false) (hv : s.rspValid = false)
    (hc : q.cmdValid = true) (hd : decode q.cmdWord q.cmdPayload = .instr i)
    (he : exec i (s.setInputs rest) = .refused .lengthOverflow) :
    step s = .next (s.setInputs rest).markRefused := by
  rw [step_of_decode hi hr hv hc hd, he]
  rfl

/-- Settles O22: the length bound is checked after the session, and refuses. -/
theorem dataPastTheBoundIsRefused : Obligations.DataPastTheBoundIsRefused :=
  fun _ _ p hs h1 h64 hl => ⟨exec_data_of_overflow h1 h64 p hs hl,
    fun _ _ hi hr hv hc hd => step_of_overflow hi hr hv hc hd (exec_data_of_overflow h1 h64 p hs hl)⟩

end Sys2Proof.Machine

/-! SUPPORT. Proofs of the statements about the session (44_streaming.md R105 to R117;
60_exceptions.md R131 to R135). -/

namespace Sys2Proof.Machine

/-! ### What the commands of a session answer (44_streaming R106, R108, R111 to R113) -/

/-- A command has one answer. -/
theorem exec_next_unique {i : Instr} {s t u : State} (hu : exec i s = .next u)
    (ht : exec i s = .next t) : t = u := Host.Outcome.next.inj (ht.symm.trans hu)

/-- A term that no legal word encodes is a DATA, and is answered ILLEGAL. -/
theorem exec_of_not_wellFormed {i : Instr} (hw : i.wellFormed = false) (s : State) :
    exec i s = .next s.respondIllegal := by
  cases i with
  | data n p => exact exec_data_of_not_lenInRange hw p s
  | init => cases hw
  | endCmd => cases hw
  | fail => cases hw
  | rddig k => cases hw
  | rdstat => cases hw

/-- A DATA that completes in an open session has absorbed its bytes. -/
theorem eq_of_exec_data {n : BitVec 7} (hn : lenInRange n = true) {p : Block} {s t : State}
    (hs : s.sess = .absorb) (h : exec (.data n p) s = .next t) :
    s.fill.toNat ≤ 63 ∧ t = (s.absorbBytes (dataBytes n p)).respond .ok 0 := by
  rw [exec_data_of_absorb hn p hs] at h
  cases hl : lengthAdmitted s.bitlen n <;> cases hf : fillInRange s.fill <;>
    simp only [hl, hf, if_true, if_false, Bool.false_eq_true] at h
  case true.true => exact ⟨(fillInRange_eq_true_iff _).mp hf, (Host.Outcome.next.inj h).symm⟩
  all_goals cases h

/-- An END that completes in an open session has finalized it. -/
theorem eq_of_exec_endCmd {s t : State} (hs : s.sess = .absorb) (h : exec .endCmd s = .next t) :
    t = (s.finalize.openAfterEnd.setSess .done).respond .ok 0 := by
  by_cases hf : s.fill.toNat ≤ 63
  · exact Host.Outcome.next.inj (h.symm.trans (exec_endCmd_of_absorb hs hf))
  · cases h.symm.trans (exec_endCmd_of_full hs (by omega))

theorem exec_fail_of_absorb {s : State} (hs : s.sess = .absorb) :
    exec .fail s = .next ((s.discardData.setSess .failed).respond .ioerr 0) := by
  rw [exec, execFail, ifAllowed_of_allowed (by simp [allowed, hs])]

theorem exec_rddig_of_done {s : State} (hs : s.sess = .done) (k : BitVec 3) :
    exec (.rddig k) s = .next (s.respond .ok (digestWord s.h k)) := by
  rw [exec, execRddig, ifAllowed_of_allowed (by simp [allowed, hs])]

/-- A well-formed command that the session does not allow, with the table's code written out. -/
theorem exec_of_not_allowed_eq {i : Instr} {s : State} (hw : i.wellFormed = true)
    (ha : allowed i s.sess = false) :
    exec i s = .next (s.respond (if s.sess = .failed then .ioerr else .state) 0) := by
  have hcode : reject s.sess = if s.sess = .failed then .ioerr else .state := by
    cases s.sess <;> rfl
  rw [exec_of_not_allowed hw ha, hcode]

/-- Settles O29: in an open session FAIL is allowed. -/
theorem failAbortsTheSession : Obligations.FailAbortsTheSession :=
  fun _ hs => ⟨_, exec_fail_of_absorb hs, rfl, rfl, rfl, rfl, rfl, rfl⟩

/-- Settles O30: in DONE RDDIG is allowed. -/
theorem rddigReadsDigestWord : Obligations.RddigReadsDigestWord := by
  intro s i hs
  have hword : digestWord s.h i = s.h.toList.getD i.toNat 0 := by
    rw [digestWord, List.getD_eq_getElem _ _ (by simp; omega), Vector.getElem_toList]
  rw [exec_rddig_of_done hs, hword]
  rfl

/-! ### The session table (44_streaming R106) -/

/-- The three commands of an open session. -/
theorem allowed_eq_beq_absorb {i : Instr} (hi : i = .endCmd ∨ i = .fail ∨ ∃ n p, i = .data n p)
    (sess : Sess) : allowed i sess = (sess == .absorb) := by
  rcases hi with rfl | rfl | ⟨n, p, rfl⟩ <;> rfl

/-- Settles O32: the cells without action are those that the session does not allow; in the others the
next state is the one that the command writes. -/
theorem sessionTable : Obligations.SessionTable := by
  refine fun i s hw => ⟨fun hi hs => ?_, ?_, fun t ht => ⟨?_, ?_, ?_, ?_, ?_, ?_⟩⟩
  · exact exec_of_not_allowed_eq hw (by simp [allowed_eq_beq_absorb hi, hs])
  · rintro ⟨k, rfl⟩ hs
    exact exec_of_not_allowed_eq hw (by simp [allowed, hs])
  · rintro rfl
    obtain rfl := exec_next_unique (exec_init s) ht
    exact ⟨rfl, rfl⟩
  · rintro ⟨n, p, rfl⟩ hs
    obtain ⟨-, rfl⟩ := eq_of_exec_data hw hs ht
    exact ⟨by simp [hs], rfl⟩
  · rintro rfl hs
    obtain rfl := eq_of_exec_endCmd hs ht
    exact ⟨rfl, rfl⟩
  · rintro rfl hs
    obtain rfl := exec_next_unique (exec_fail_of_absorb hs) ht
    exact ⟨rfl, rfl⟩
  · rintro ⟨k, rfl⟩ hs
    obtain rfl := exec_next_unique (exec_rddig_of_done hs k) ht
    exact ⟨hs, rfl⟩
  · rintro rfl
    obtain rfl := exec_next_unique (exec_rdstat s) ht
    exact ⟨rfl, rfl⟩

/-! ### One session at a time (44_streaming R115; 70_reset_and_hazards R148; 60_exceptions R133) -/

/-- The only commands that IDLE and FAILED allow are INIT and RDSTAT. -/
theorem not_allowed_of_ne {i : Instr} {sess : Sess} (habs : sess ≠ .absorb) (hdone : sess ≠ .done)
    (hinit : i ≠ .init) (hrdstat : i ≠ .rdstat) : allowed i sess = false := by
  cases i with
  | init => exact absurd rfl hinit
  | data n p => exact beq_eq_false_iff_ne.mpr habs
  | endCmd => exact beq_eq_false_iff_ne.mpr habs
  | fail => exact beq_eq_false_iff_ne.mpr habs
  | rddig k => exact beq_eq_false_iff_ne.mpr hdone
  | rdstat => exact absurd rfl hrdstat

/-- Outside an open session the STATUS word is the code of the session. -/
theorem exec_rdstat_of_ne_absorb {s : State} (hs : s.sess ≠ .absorb) :
    exec .rdstat s = .next (s.respond .ok (s.sess.code.setWidth 32)) := by
  rw [exec_rdstat, statusWord_of_ne_absorb hs]

/-- Settles O33: in DONE a command reads, or is not allowed. -/
theorem digestIsImmutable : Obligations.DigestIsImmutable := by
  intro i s hw hs hinit
  cases ha : allowed i s.sess with
  | false => exact ⟨_, _, exec_of_not_allowed hw ha⟩
  | true =>
    rw [hs] at ha
    cases i with
    | init => exact absurd rfl hinit
    | rddig k => exact ⟨_, _, exec_rddig_of_done hs k⟩
    | rdstat => exact ⟨_, _, exec_rdstat s⟩
    | data n p => cases ha
    | endCmd => cases ha
    | fail => cases ha

/-- Settles O51: in IDLE only RDSTAT is allowed beside INIT, and the code of IDLE is 0. -/
theorem resetAwaitsInit : Obligations.ResetAwaitsInit := by
  refine ⟨rfl, rfl, fun i s hw hs hinit => ?_⟩
  by_cases hrdstat : i = .rdstat
  · subst hrdstat
    have hcode : s.sess.code.setWidth 32 = (0 : Word) := by rw [hs]; rfl
    rw [exec_rdstat_of_ne_absorb (by simp [hs]), hcode, if_pos rfl]
    rfl
  · have ha : allowed i s.sess = false :=
      not_allowed_of_ne (by simp [hs]) (by simp [hs]) hinit hrdstat
    rw [exec_of_not_allowed_eq hw ha, if_neg (by simp [hs]), if_neg hrdstat]
    rfl

/-- In FAILED every command but INIT only answers. -/
theorem exec_of_failed {i : Instr} {s : State} (hw : i.wellFormed = true) (hs : s.sess = .failed)
    (hinit : i ≠ .init) :
    ∃ t, exec i s = .next t ∧ t.sess = .failed ∧
      (t.rcode, t.rdata) = if i = .rdstat then (.ok, 3) else (.ioerr, 0) := by
  by_cases hrdstat : i = .rdstat
  · subst hrdstat
    refine ⟨_, exec_rdstat_of_ne_absorb (by simp [hs]), hs, ?_⟩
    rw [if_pos rfl, hs]
    rfl
  · have ha : allowed i s.sess = false :=
      not_allowed_of_ne (by simp [hs]) (by simp [hs]) hinit hrdstat
    refine ⟨_, exec_of_not_allowed_eq hw ha, hs, ?_⟩
    rw [if_neg hrdstat, if_pos hs]
    rfl

/-- Settles O34, by induction over the commands: each leaves the session FAILED. -/
theorem failedUntilInit : Obligations.FailedUntilInit := by
  intro is
  induction is with
  | nil => exact fun s hs _ => ⟨s, rfl, hs⟩
  | cons i is ih =>
    intro s hs his
    obtain ⟨⟨hw, hinit⟩, hrest⟩ := List.forall_mem_cons.mp his
    obtain ⟨t, hexec, ht, hresp⟩ := exec_of_failed hw hs hinit
    obtain ⟨u, hrun, hu⟩ := ih t ht hrest
    exact ⟨u, by rw [runCommands_cons hexec hrun, hresp, List.map_cons], hu⟩

/-- INIT makes the invariant hold: no byte is buffered, and none has been counted. -/
theorem State.inv_beginSession (s : State) : s.beginSession.Inv := fun _ => by
  rw [beginSession_fill, beginSession_bitlen]
  decide

/-- Settles O35: under the invariant a command does not fault, and only DATA is refused. -/
theorem everyCommandIsAnswered : Obligations.EveryCommandIsAnswered := by
  refine ⟨fun i s _ hinv => ?_, fun s => ⟨_, exec_init s, rfl, s.inv_beginSession⟩⟩
  cases h : exec i s with
  | next t => exact .inl ⟨t, rfl⟩
  | fault r =>
    obtain ⟨hs, hf⟩ := exec_fault_cases h
    obtain ⟨hle, -⟩ := hinv hs
    rw [(fillInRange_eq_true_iff _).mpr hle] at hf
    cases hf
  | refused r =>
    obtain ⟨n, p, rfl, rfl, -, hs, hl⟩ := exec_refused_cases h
    rw [← Bool.not_eq_true, lengthAdmitted_eq_true_iff] at hl
    exact .inr ⟨n, p, rfl, hs, by omega, rfl⟩

/-! ### Idempotent commands (20_memory R45) -/

/-- Settles O19: INIT writes what it has written, and a response does not change what RDDIG and RDSTAT
read. -/
theorem idempotentCommands : Obligations.IdempotentCommands := by
  rintro i s t (rfl | ⟨k, rfl⟩ | rfl) h
  · obtain rfl := exec_next_unique (exec_init s) h
    exact exec_init _
  · by_cases hs : s.sess = .done
    · obtain rfl := exec_next_unique (exec_rddig_of_done hs k) h
      exact exec_rddig_of_done hs k
    · have ha : allowed (.rddig k) s.sess = false := by simp [allowed, hs]
      obtain rfl := exec_next_unique (exec_of_not_allowed rfl ha) h
      exact exec_of_not_allowed rfl ha
  · obtain rfl := exec_next_unique (exec_rdstat s) h
    exact exec_rdstat _

/-! ### Two runs side by side (10_state R27; 60_exceptions R133) -/

/-- What the responses of an unfinished session may depend on: `SESS`, and `FILL` while it is open. -/
structure State.SamePublic (s₁ s₂ : State) : Prop where
  sess : s₁.sess = s₂.sess
  ne_done : s₁.sess ≠ .done
  fill : s₁.sess = .absorb → s₁.fill = s₂.fill

/-- The same answer in both states keeps the relation. -/
theorem State.SamePublic.respond {s₁ s₂ : State} (hs : s₁.SamePublic s₂) (c : RCode) (d : Word) :
    (s₁.respond c d).SamePublic (s₂.respond c d) := ⟨hs.sess, hs.ne_done, hs.fill⟩

theorem State.SamePublic.statusWord_eq {s₁ s₂ : State} (hs : s₁.SamePublic s₂) :
    statusWord s₁.sess s₁.fill = statusWord s₂.sess s₂.fill := by
  by_cases habs : s₁.sess = .absorb
  · rw [hs.sess, hs.fill habs]
  · rw [statusWord_of_ne_absorb habs, statusWord_of_ne_absorb (hs.sess ▸ habs), hs.sess]

/-- Any command but END gives the same response in both states, and keeps the relation. -/
theorem State.SamePublic.exec {i : Instr} {s₁ s₂ t₁ t₂ : State} (hs : s₁.SamePublic s₂)
    (hend : i ≠ .endCmd) (h₁ : exec i s₁ = .next t₁) (h₂ : exec i s₂ = .next t₂) :
    t₁.SamePublic t₂ ∧ (t₁.rcode, t₁.rdata) = (t₂.rcode, t₂.rdata) := by
  by_cases hw : i.wellFormed = true
  case neg =>
    rw [Bool.not_eq_true] at hw
    obtain rfl := exec_next_unique (exec_of_not_wellFormed hw s₁) h₁
    obtain rfl := exec_next_unique (exec_of_not_wellFormed hw s₂) h₂
    exact ⟨hs.respond _ _, rfl⟩
  cases ha : allowed i s₁.sess with
  | false =>
    obtain rfl := exec_next_unique (exec_of_not_allowed hw ha) h₁
    obtain rfl := exec_next_unique (exec_of_not_allowed hw (hs.sess ▸ ha)) h₂
    rw [hs.sess]
    exact ⟨hs.respond _ _, rfl⟩
  | true =>
    cases i with
    | init =>
      obtain rfl := exec_next_unique (exec_init s₁) h₁
      obtain rfl := exec_next_unique (exec_init s₂) h₂
      exact ⟨⟨rfl, by simp, fun _ => rfl⟩, rfl⟩
    | data n p =>
      have habs : s₁.sess = .absorb := eq_of_beq ha
      obtain ⟨hf₁, rfl⟩ := eq_of_exec_data hw habs h₁
      obtain ⟨hf₂, rfl⟩ := eq_of_exec_data hw (hs.sess ▸ habs) h₂
      refine ⟨⟨by simp [hs.sess], by simp [habs], fun _ => BitVec.eq_of_toNat_eq ?_⟩, rfl⟩
      rw [respond_fill, respond_fill, absorbBytes_fill _ _ hf₁, absorbBytes_fill _ _ hf₂,
        hs.fill habs]
    | endCmd => exact absurd rfl hend
    | fail =>
      have habs : s₁.sess = .absorb := eq_of_beq ha
      obtain rfl := exec_next_unique (exec_fail_of_absorb habs) h₁
      obtain rfl := exec_next_unique (exec_fail_of_absorb (hs.sess ▸ habs)) h₂
      exact ⟨⟨rfl, by simp, fun h => by cases h⟩, rfl⟩
    | rddig k => exact absurd (eq_of_beq ha) hs.ne_done
    | rdstat =>
      obtain rfl := exec_next_unique (exec_rdstat s₁) h₁
      obtain rfl := exec_next_unique (exec_rdstat s₂) h₂
      rw [hs.statusWord_eq]
      exact ⟨hs.respond _ _, rfl⟩

/-- Settles O36, by induction over the commands: each keeps the relation. -/
theorem partialHashNeverExposed : Obligations.PartialHashNeverExposed := by
  intro is s₁ s₂ t₁ t₂ rs₁ rs₂ hsess hdone hfill
  have hs : s₁.SamePublic s₂ := ⟨hsess, hdone, hfill⟩
  clear hsess hdone hfill
  induction is generalizing s₁ s₂ rs₁ rs₂ with
  | nil =>
    intro _ h₁ h₂
    cases h₁
    cases h₂
    rfl
  | cons i is ih =>
    intro hend h₁ h₂
    obtain ⟨hi, his⟩ := List.forall_mem_cons.mp hend
    obtain ⟨u₁, rs₁', he₁, hr₁, rfl⟩ := runCommands_cons_next h₁
    obtain ⟨u₂, rs₂', he₂, hr₂, rfl⟩ := runCommands_cons_next h₂
    obtain ⟨hu, hresp⟩ := hs.exec hi he₁ he₂
    rw [hresp, ih u₁ u₂ rs₁' rs₂' hu his hr₁ hr₂]

end Sys2Proof.Machine

/-! SUPPORT. Proofs of the statements about the step and the invariant (10_state.md R19, R28;
44_streaming.md R105, R117; 60_exceptions.md R135; 70_reset_and_hazards.md R145 to R149). -/

namespace Sys2Proof.Machine

/-! ### The invariant (10_state R19; 40_primitives R70; 43_padding R95) -/

/-- The invariant speaks of `SESS`, `FILL` and `BITLEN` only. -/
theorem State.Inv.congr {s t : State} (hs : s.Inv) (hsess : t.sess = s.sess)
    (hfill : t.fill = s.fill) (hbit : t.bitlen = s.bitlen) : t.Inv := by
  unfold State.Inv
  rw [hsess, hfill, hbit]
  exact hs

theorem State.inv_of_ne_absorb {s : State} (hs : s.sess ≠ .absorb) : s.Inv :=
  fun h => absurd h hs

/-- Bytes within the length bound advance `FILL` and `BITLEN` together. -/
theorem State.Inv.absorbBytes {s : State} (hs : s.Inv) (habs : s.sess = .absorb) {xs : List Byte}
    (hl : s.bitlen.toNat + 8 * xs.length ≤ 2 ^ 64 - 8) : (s.absorbBytes xs).Inv := by
  intro _
  obtain ⟨hf, -, hmod, hlink⟩ := hs habs
  have hfill := s.absorbBytes_fill xs hf
  have hbit : (s.absorbBytes xs).bitlen.toNat = s.bitlen.toNat + 8 * xs.length := by
    rw [absorbBytes_bitlen, BitVec.toNat_add, BitVec.toNat_ofNat]
    omega
  omega

/-- Every command keeps the invariant: only an admitted DATA advances an open session. -/
theorem State.Inv.exec {i : Instr} {s t : State} (hs : s.Inv) (h : exec i s = .next t) : t.Inv := by
  rcases exec_next_cases h with ⟨-, rfl⟩ | ⟨n, p, -, -, rfl⟩ | ⟨n, p, -, hn, habs, hl, -, rfl⟩ |
    ⟨-, -, -, rfl⟩ | ⟨-, -, rfl⟩ | ⟨k, -, -, rfl⟩ | ⟨-, rfl⟩ | ⟨-, -, rfl⟩
  · exact s.inv_beginSession
  · exact hs.congr rfl rfl rfl
  · obtain ⟨-, h64⟩ := (lenInRange_eq_true_iff n).mp hn
    refine (hs.absorbBytes habs ?_).congr rfl rfl rfl
    rw [length_dataBytes h64]
    exact (lengthAdmitted_eq_true_iff _ _).mp hl
  · exact inv_of_ne_absorb (by simp)
  · exact inv_of_ne_absorb (by simp)
  · exact hs.congr rfl rfl rfl
  · exact hs.congr rfl rfl rfl
  · exact hs.congr rfl rfl rfl

/-- An accepted word is a command, or is answered ILLEGAL. -/
theorem perform_next_cases {w : BitVec 32} {bus : BitVec 512} {s t : State}
    (h : perform w bus s = .next t) :
    (∃ i, decode w bus = .instr i ∧ exec i s = .next t) ∨ t = s.respondIllegal := by
  unfold perform at h
  cases hd : decode w bus with
  | instr i => exact .inl ⟨i, rfl, by simpa only [hd] using h⟩
  | illegal why =>
    simp only [hd] at h
    exact .inr (Host.Outcome.next.inj h).symm

theorem State.Inv.perform {w : BitVec 32} {bus : BitVec 512} {s t : State} (hs : s.Inv)
    (h : perform w bus s = .next t) : t.Inv := by
  rcases perform_next_cases h with ⟨i, -, hi⟩ | rfl
  · exact hs.exec hi
  · exact hs.congr rfl rfl rfl

/-- Settles O53: a reset leaves no open session, an accepted word keeps the invariant, and every other
event touches the port and the mark only. -/
theorem stepKeepsInvariant : Obligations.StepKeepsInvariant := by
  intro s t hs h
  rcases step_next_cases h with ⟨-, rfl⟩ | ⟨p, rest, -, ⟨-, rfl⟩ | ⟨-, -, -, rfl⟩ | ⟨-, -, -, rfl⟩ |
    ⟨-, -, -, rfl⟩ | ⟨-, -, -, ⟨u, hu, rfl⟩ | ⟨-, rfl⟩⟩⟩
  · exact hs
  · exact State.inv_of_ne_absorb (by simp)
  · exact hs.congr rfl rfl rfl
  · exact hs.congr rfl rfl rfl
  · exact hs.congr rfl rfl rfl
  · have hrest : (s.setInputs rest).Inv := hs.congr rfl rfl rfl
    exact (hrest.perform hu).congr rfl rfl rfl
  · exact hs.congr rfl rfl rfl

/-- Settles O52: no session is open. -/
theorem invariantAtReset : Obligations.InvariantAtReset := State.inv_of_ne_absorb (by decide)

/-! ### The refusal mark (44_streaming R117) -/

/-- No command by itself touches the mark. -/
theorem exec_keeps_refused {i : Instr} {s t : State} (h : exec i s = .next t) : t.refused = s.refused := by
  rcases exec_next_cases h with ⟨-, rfl⟩ | ⟨n, p, -, -, rfl⟩ | ⟨n, p, -, -, -, -, -, rfl⟩ |
    ⟨-, -, -, rfl⟩ | ⟨-, -, rfl⟩ | ⟨k, -, -, rfl⟩ | ⟨-, rfl⟩ | ⟨-, -, rfl⟩ <;>
    simp [State.respondIllegal]

theorem perform_keeps_refused {w : BitVec 32} {bus : BitVec 512} {s t : State}
    (h : perform w bus s = .next t) : t.refused = s.refused := by
  rcases perform_next_cases h with ⟨i, -, hi⟩ | rfl
  · exact exec_keeps_refused hi
  · rfl

/-- A word whose performance is refused is a DATA past the length bound. -/
theorem perform_refused_cases {w : BitVec 32} {bus : BitVec 512} {s : State} {r : Refusal}
    (h : perform w bus s = .refused r) :
    ∃ n p, decode w bus = .instr (.data n p) ∧ s.sess = .absorb ∧
      2 ^ 64 - 8 < s.bitlen.toNat + 8 * n.toNat := by
  unfold perform at h
  cases hd : decode w bus with
  | illegal why => simp [hd] at h
  | instr i =>
    simp only [hd] at h
    obtain ⟨n, p, rfl, -, -, hs, hl⟩ := exec_refused_cases h
    rw [← Bool.not_eq_true, lengthAdmitted_eq_true_iff] at hl
    exact ⟨n, p, rfl, hs, by omega⟩

/-- A step keeps the mark, or accepts a DATA past the length bound. -/
theorem step_keeps_refused_or_overflow {s t : State} (h : step s = .next t) :
    t.refused = s.refused ∨
      ∃ q rest n p, s.inputs = q :: rest ∧ q.rst = false ∧ s.rspValid = false ∧ q.cmdValid = true ∧
        decode q.cmdWord q.cmdPayload = .instr (.data n p) ∧ s.sess = .absorb ∧
        2 ^ 64 - 8 < s.bitlen.toNat + 8 * n.toNat ∧ t = (s.setInputs rest).markRefused := by
  rcases step_next_cases h with ⟨-, rfl⟩ | ⟨q, rest, hi, ⟨-, rfl⟩ | ⟨-, -, -, rfl⟩ |
    ⟨-, -, -, rfl⟩ | ⟨-, -, -, rfl⟩ | ⟨hr, hv, hc, ⟨u, hu, rfl⟩ | ⟨hp, rfl⟩⟩⟩
  · exact .inl rfl
  · exact .inl rfl
  · exact .inl rfl
  · exact .inl rfl
  · exact .inl rfl
  · have hkeep := perform_keeps_refused hu
    exact .inl hkeep
  · obtain ⟨n, p, hd, hs, hl⟩ := perform_refused_cases hp
    exact .inr ⟨q, rest, n, p, hi, hr, hv, hc, hd, hs, hl, rfl⟩

/-- Settles O23: the step that does not keep the mark sets it. -/
theorem refusalMarkIsSticky : Obligations.RefusalMarkIsSticky := by
  intro s t h
  rcases step_keeps_refused_or_overflow h with
    heq | ⟨q, rest, n, p, hi, hr, hv, hc, hd, hs, hl, rfl⟩
  · exact ⟨fun hset => heq.trans hset, fun hclear hset => by simp [heq, hclear] at hset⟩
  · exact ⟨fun _ => rfl, fun _ _ => ⟨q, rest, n, p, hi, hr, hv, hc, hd, hs, hl, rfl⟩⟩

/-! ### What the port does with a sample (44_streaming R105; 70_reset_and_hazards R145 to R149) -/

/-- Settles O43: the three outcomes of `exec`, as the end of the transaction hands them on. -/
theorem stepRunsDecodedCommand : Obligations.StepRunsDecodedCommand := by
  intro s p rest i hi hr hv hc hd
  have hstep := step_of_decode hi hr hv hc hd
  refine ⟨fun t ht => ?_, fun r hfault => ?_, fun href => ?_⟩
  · exact hstep.trans (congrArg (finishCommand p.rspReady (s.setInputs rest)) ht)
  · exact hstep.trans (congrArg (finishCommand p.rspReady (s.setInputs rest)) hfault)
  · exact hstep.trans (congrArg (finishCommand p.rspReady (s.setInputs rest)) href)

theorem step_of_taken {s : State} {rest : List PortInput} (h : nextEvent s = .taken rest) :
    step s = .next ((s.setInputs rest).setRspValid false) := by
  rw [step, portStep, h]

theorem step_of_reset {s : State} {rest : List PortInput} (h : nextEvent s = .reset rest) :
    step s = .next (s.setInputs rest).powerOnReset := by
  rw [step, portStep, h]

/-- Settles O47: a sample takes the pending response, or makes no transfer. -/
theorem oneCommandAtATime : Obligations.OneCommandAtATime := by
  intro s p rest hi hr hv
  refine ⟨by simp [cmdReady, hv], ?_⟩
  cases hq : p.rspReady with
  | true =>
    have hev : nextEvent s = .taken rest := by simp [nextEvent, hi, hr, hv, hq]
    exact step_of_taken hev
  | false =>
    have hev : nextEvent s = .noTransfer rest := by simp [nextEvent, hi, hr, hv, hq]
    have hkeep : (s.setInputs rest).setRspValid true = s.setInputs rest :=
      State.setRspValid_of_eq hv
    rw [step_of_noTransfer hev, ← hkeep]
    rfl

/-- Settles O50: the reset is read before everything else. -/
theorem resetAbandonsTheCommand : Obligations.ResetAbandonsTheCommand := by
  intro s p rest hi hr
  have hev : nextEvent s = .reset rest := by simp [nextEvent, hi, hr]
  exact ⟨by simp [cmdReady, hr], _, step_of_reset hev, rfl, rfl, rfl, rfl⟩

/-! ### One code for each command (60_exceptions R135) -/

/-- The decoder answers a legal word with a well-formed command of its OP. -/
theorem exists_wellFormed_of_legal {w : BitVec 32} (hl : legal w = true) (bus : BitVec 512) :
    ∃ i, decode w bus = .instr i ∧ i.wellFormed = true ∧ Laws.opcodeOf i = opField w := by
  obtain ⟨i, hd⟩ := exists_decode_of_legal hl bus
  exact ⟨i, hd, wellFormed_of_decode hd, opcodeOf_of_decode hd⟩

/-- The session table by OP: which commands a session allows. -/
theorem allowed_iff_opcodeOf (i : Instr) (sess : Sess) :
    allowed i sess = true ↔
      Laws.opcodeOf i = 1 ∨ Laws.opcodeOf i = 6 ∨ (Laws.opcodeOf i = 5 ∧ sess = .done) ∨
        (2 ≤ (Laws.opcodeOf i).toNat ∧ (Laws.opcodeOf i).toNat ≤ 4 ∧ sess = .absorb) := by
  cases i <;> simp [allowed, Laws.opcodeOf]

/-- The step that accepts a legal word which the session does not allow. -/
theorem step_of_not_allowed {s : State} {p : PortInput} {rest : List PortInput} {i : Instr}
    (hi : s.inputs = p :: rest) (hr : p.rst = false) (hv : s.rspValid = false)
    (hc : p.cmdValid = true) (hd : decode p.cmdWord p.cmdPayload = .instr i)
    (ha : allowed i s.sess = false) :
    step s = .next (((s.setInputs rest).respond (if s.sess = .failed then .ioerr else .state)
      0).setRspValid (!p.rspReady)) := by
  rw [step_of_decode hi hr hv hc hd,
    exec_of_not_allowed_eq (s := s.setInputs rest) (wellFormed_of_decode hd) ha]
  rfl

/-- A command that is allowed and completes is answered OK, or is FAIL. -/
theorem rcode_of_allowed {i : Instr} {s t : State} (hw : i.wellFormed = true)
    (ha : allowed i s.sess = true) (h : exec i s = .next t) :
    t.rcode = if Laws.opcodeOf i = 4 then .ioerr else .ok := by
  rcases exec_next_cases h with ⟨rfl, rfl⟩ | ⟨n, p, rfl, hn, -⟩ | ⟨n, p, rfl, -, -, -, -, rfl⟩ |
    ⟨rfl, -, -, rfl⟩ | ⟨rfl, -, rfl⟩ | ⟨k, rfl, -, rfl⟩ | ⟨rfl, rfl⟩ | ⟨-, hna, -⟩
  · rfl
  · cases hn.symm.trans hw
  · rfl
  · rfl
  · rfl
  · rfl
  · rfl
  · cases hna.symm.trans ha

/-- Settles O45: legality, then the session, then the command's own code. -/
theorem codePriority : Obligations.CodePriority := by
  intro s p rest hi hr hv hc
  refine ⟨fun hl => step_of_not_legal hi hr hv hc hl, fun hl hs h1 h6 => ?_,
    fun hl hs hop => ?_, fun hl hop t ht => ?_⟩
  all_goals obtain ⟨i, hd, hw, hcode⟩ := exists_wellFormed_of_legal hl p.cmdPayload
  · have ha : allowed i s.sess = false := by
      rw [← Bool.not_eq_true, allowed_iff_opcodeOf, hcode, hs]
      rintro (h | h | ⟨-, h⟩ | ⟨-, -, h⟩)
      · exact h1 h
      · exact h6 h
      · cases h
      · cases h
    exact (step_of_not_allowed hi hr hv hc hd ha).trans (by rw [if_pos hs]; rfl)
  · have hnf : s.sess ≠ .failed := by rcases hs with h | h | h <;> simp [h]
    have ha : allowed i s.sess = false := by
      rw [← Bool.not_eq_true, allowed_iff_opcodeOf, hcode]
      rcases hop with ⟨h2, h4, hne⟩ | ⟨h5, hne⟩
      · rintro (h | h | ⟨h, -⟩ | ⟨-, -, h⟩)
        · simp [h] at h2
        · simp [h] at h4
        · simp [h] at h4
        · exact hne h
      · simp [h5, hne]
    exact (step_of_not_allowed hi hr hv hc hd ha).trans (by rw [if_neg hnf]; rfl)
  · have ha : allowed i (s.setInputs rest).sess = true := by
      rw [allowed_iff_opcodeOf, hcode]
      exact hop
    rw [perform, hd] at ht
    rw [rcode_of_allowed hw ha ht, hcode]

end Sys2Proof.Machine

/-! SUPPORT. Proofs of the statements about host programs (44_streaming.md R118, R119;
45_host_protocol.md R121 to R128). -/

namespace Sys2Proof.Machine

/-! ### A session over chunks (44_streaming R119) -/

/-- What END makes of a session that has absorbed `b`. -/
theorem State.HasAbsorbed.finalize_h {s : State} {b : List Byte} (hs : s.HasAbsorbed b) :
    s.finalize.h = sha256Words b := by
  rw [State.finalize_h, hs.pending, hs.bitlen, hs.h, sha256Words]

theorem State.HasAbsorbed.fill_le {s : State} {b : List Byte} (hs : s.HasAbsorbed b) :
    s.fill.toNat ≤ 63 := by
  rw [hs.fill]
  omega

/-- INIT and the chunks are answered OK and leave an open session that has absorbed their bytes. -/
theorem runCommands_init_dataCommands {pieces : List (List Byte)} (s : State)
    (hp : ∀ c ∈ pieces, 1 ≤ c.length ∧ c.length ≤ 64) (hl : 8 * pieces.flatten.length < 2 ^ 64) :
    ∃ t rs, runCommands (.init :: dataCommands pieces) s = .next (t, rs) ∧
      t.sess = .absorb ∧ t.HasAbsorbed pieces.flatten ∧ (∀ r ∈ rs, r = (.ok, 0)) ∧
      rs.length = pieces.length + 1 := by
  obtain ⟨t, hrun, hsess, habs⟩ := runCommands_dataCommands (s := s.beginSession.respond .ok 0) hp rfl
    (s.hasAbsorbed_beginSession.respond _ _) (by simpa using hl)
  refine ⟨t, _, runCommands_cons (exec_init s) hrun, hsess, by simpa using habs, ?_, by simp⟩
  refine List.forall_mem_cons.mpr ⟨rfl, fun r hr => ?_⟩
  obtain ⟨c, -, rfl⟩ := List.mem_map.mp hr
  rfl

/-- One command after a sequence that completes. -/
theorem runCommands_concat {is : List Instr} {i : Instr} {s t u : State} {rs : List (RCode × Word)}
    (h : runCommands is s = .next (t, rs)) (hi : exec i t = .next u) :
    runCommands (is ++ [i]) s = .next (u, rs ++ [(u.rcode, u.rdata)]) :=
  runCommands_append h (runCommands_cons hi rfl)

/-- INIT, the chunks and END leave the digest words of the bytes in DONE. -/
theorem runCommands_session {pieces : List (List Byte)} (s : State)
    (hp : ∀ c ∈ pieces, 1 ≤ c.length ∧ c.length ≤ 64) (hl : 8 * pieces.flatten.length < 2 ^ 64) :
    ∃ t rs, runCommands (.init :: (dataCommands pieces ++ [.endCmd])) s = .next (t, rs) ∧
      t.sess = .done ∧ t.h = sha256Words pieces.flatten ∧ (∀ r ∈ rs, r = (.ok, 0)) := by
  obtain ⟨t, rs, hrun, hsess, habs, hrs, -⟩ := runCommands_init_dataCommands s hp hl
  have hend := exec_endCmd_of_absorb hsess habs.fill_le
  refine ⟨_, _, runCommands_concat hrun hend, rfl, habs.finalize_h, ?_⟩
  exact List.forall_mem_append.mpr ⟨hrs, List.forall_mem_singleton.mpr rfl⟩

/-- Settles O37: the chunks keep the relation to the bytes absorbed, and END finalizes them. -/
theorem sessionComputesSha256 : Obligations.SessionComputesSha256 := by
  intro s pieces hp hl
  obtain ⟨t, rs, hrun, hsess, hh, hrs⟩ := runCommands_session s hp hl
  exact ⟨t, rs, hrun, hsess, hh, hrs, (digestIsBigEndian _).1⟩

/-! ### Any session that completes (44_streaming R118) -/

/-- A sequence that completes, cut in two. -/
theorem runCommands_append_next {a b : List Instr} {s u : State} {rs : List (RCode × Word)}
    (h : runCommands (a ++ b) s = .next (u, rs)) :
    ∃ t ra rb, runCommands a s = .next (t, ra) ∧ runCommands b t = .next (u, rb) := by
  induction a generalizing s rs with
  | nil => exact ⟨s, [], rs, rfl, h⟩
  | cons i is ih =>
    obtain ⟨v, rs', hi, hrest, -⟩ := runCommands_cons_next h
    obtain ⟨t, ra, rb, ha, hb⟩ := ih hrest
    exact ⟨t, _, rb, runCommands_cons hi ha, hb⟩

theorem lenInRange_ofNat {n : Nat} (h1 : 1 ≤ n) (h64 : n ≤ 64) :
    lenInRange (BitVec.ofNat 7 n) = true := by
  rw [lenInRange_eq_true_iff, BitVec.toNat_ofNat]
  omega

/-- DATA commands that complete have absorbed their bytes. -/
theorem State.HasAbsorbed.of_runCommands {pieces : List (List Byte)} {b : List Byte} {s t : State}
    {rs : List (RCode × Word)} (hp : ∀ c ∈ pieces, 1 ≤ c.length ∧ c.length ≤ 64)
    (hs : s.sess = .absorb) (ha : s.HasAbsorbed b)
    (h : runCommands (dataCommands pieces) s = .next (t, rs)) :
    t.sess = .absorb ∧ t.HasAbsorbed (b ++ pieces.flatten) := by
  induction pieces generalizing b s rs with
  | nil =>
    cases h
    exact ⟨hs, by simpa using ha⟩
  | cons c cs ih =>
    obtain ⟨⟨h1, h64⟩, hcs⟩ := List.forall_mem_cons.mp hp
    obtain ⟨u, rs', hc, hrest, -⟩ := runCommands_cons_next h
    obtain ⟨-, rfl⟩ := eq_of_exec_data (lenInRange_ofNat h1 h64) hs hc
    rw [dataBytes_dataCommand c h64] at hrest
    have hnext := ih hcs (by simpa using hs) ((ha.absorbBytes c).respond _ _) hrest
    rwa [List.flatten_cons, ← List.append_assoc]

/-- So a session that completes leaves the digest words of its bytes. -/
theorem h_of_runCommands_session {pieces : List (List Byte)} {s t : State}
    {rs : List (RCode × Word)} (hp : ∀ c ∈ pieces, 1 ≤ c.length ∧ c.length ≤ 64)
    (h : runCommands (.init :: (dataCommands pieces ++ [.endCmd])) s = .next (t, rs)) :
    t.h = sha256Words pieces.flatten := by
  obtain ⟨s', rs', hinit, hrest, -⟩ := runCommands_cons_next h
  obtain rfl := exec_next_unique (exec_init s) hinit
  obtain ⟨u, ra, rb, hdata, hlast⟩ := runCommands_append_next hrest
  obtain ⟨hsess, habs⟩ := State.HasAbsorbed.of_runCommands hp rfl
    (s.hasAbsorbed_beginSession.respond _ _) hdata
  obtain ⟨v, rb', hend, hnil, -⟩ := runCommands_cons_next hlast
  cases hnil
  obtain rfl := eq_of_exec_endCmd hsess hend
  exact habs.finalize_h

/-- Settles O38: both sessions leave the digest words of the same bytes. -/
theorem chunkingFreedom : Obligations.ChunkingFreedom :=
  fun _ _ _ _ _ _ _ _ hp₁ hp₂ hcut h₁ h₂ => by
    rw [h_of_runCommands_session hp₁ h₁, h_of_runCommands_session hp₂ h₂, hcut]

/-! ### HASH (30_encoding R66; 45_host_protocol R124) -/

/-- The pieces cut from `b` are its bytes from the front. -/
theorem flatten_map_take_drop (b : List Byte) (n : Nat) :
    ((List.range n).map fun k => (b.drop (64 * k)).take 64).flatten = b.take (64 * n) := by
  induction n with
  | zero => rfl
  | succ n ih =>
    rw [List.range_succ, List.map_append, List.flatten_append, ih, List.map_singleton,
      List.flatten_singleton, Nat.mul_succ, List.take_add]

theorem flatten_piecesOf64 (b : List Byte) : (piecesOf64 b).flatten = b := by
  rw [piecesOf64, flatten_map_take_drop]
  exact List.take_of_length_le (by omega)

theorem length_of_mem_piecesOf64 {b : List Byte} :
    ∀ c ∈ piecesOf64 b, 1 ≤ c.length ∧ c.length ≤ 64 := by
  intro c hc
  obtain ⟨k, hk, rfl⟩ := List.mem_map.mp hc
  rw [List.mem_range] at hk
  rw [List.length_take, List.length_drop]
  omega

/-- Reading digest words in DONE answers each of them. -/
theorem runCommands_rddigs {s : State} (hs : s.sess = .done) (ks : List (BitVec 3)) :
    ∃ t, runCommands (ks.map .rddig) s =
      .next (t, ks.map fun k => (.ok, digestWord s.h k)) := by
  induction ks generalizing s with
  | nil => exact ⟨s, rfl⟩
  | cons k ks ih =>
    obtain ⟨t, hrest⟩ := ih (s := s.respond .ok (digestWord s.h k)) hs
    exact ⟨t, runCommands_cons (exec_rddig_of_done hs k) hrest⟩

/-- The indices that READDIGEST reads. -/
def digestIndices : List (BitVec 3) := (List.range 8).map (BitVec.ofNat 3)

theorem readDigestProgram_eq : readDigestProgram = digestIndices.map .rddig := rfl

/-- The words at these indices are the whole of `H`, in order. -/
theorem map_digestWord_digestIndices (h : HashState) :
    digestIndices.map (digestWord h) = h.toList := by
  refine List.ext_getElem (by simp [digestIndices]) fun j hj _ => ?_
  have hj8 : j < 8 := by simpa [digestIndices] using hj
  have hidx : j % 8 = j := Nat.mod_eq_of_lt hj8
  simp [digestIndices, digestWord, hidx]

/-- The responses of READDIGEST carry the digest bytes. -/
theorem bytesOfResponses_readDigest (h : HashState) :
    bytesOfResponses (digestIndices.map fun k => (.ok, digestWord h k)) = digestBytes h := by
  rw [bytesOfResponses, digestBytes, ← map_digestWord_digestIndices, List.flatMap_map,
    List.flatMap_map]

/-- Settles O39: the session over the pieces of 64 bytes, and then the eight words. -/
theorem hashReturnsTheDigest : Obligations.HashReturnsTheDigest := by
  intro s b hl
  obtain ⟨t, rs, hrun, hsess, hh, hrs⟩ := runCommands_session s length_of_mem_piecesOf64
    (by rwa [flatten_piecesOf64])
  obtain ⟨u, hread⟩ := runCommands_rddigs hsess digestIndices
  have hprog : hashProgram b =
      (.init :: (dataCommands (piecesOf64 b) ++ [.endCmd])) ++ digestIndices.map .rddig := by
    rw [← readDigestProgram_eq]
    rfl
  refine ⟨u, _, by rw [hprog]; exact runCommands_append hrun hread, fun r hr => ?_, ?_⟩
  · rcases List.mem_append.mp hr with hr | hr
    · rw [hrs r hr]
    · obtain ⟨k, -, rfl⟩ := List.mem_map.mp hr
      rfl
  · have hcount : (rs ++ digestIndices.map fun k => (RCode.ok, digestWord t.h k)).length - 8 =
        rs.length := by simp [digestIndices]
    rw [hcount, List.drop_left, bytesOfResponses_readDigest, hh, flatten_piecesOf64, sha256]

/-! ### The stream program (45_host_protocol R121, R125) -/

/-- The loop goes on for as long as reads return bytes. -/
theorem streamProgram_go_append {pieces : List (List Byte)} (hp : ∀ c ∈ pieces, 1 ≤ c.length)
    (later : List ReadResult) :
    streamProgram.go (pieces.map .bytes ++ later) =
      dataCommands pieces ++ streamProgram.go later := by
  induction pieces with
  | nil => rfl
  | cons c cs ih =>
    obtain ⟨hc, hcs⟩ := List.forall_mem_cons.mp hp
    cases c with
    | nil => cases hc
    | cons x xs => exact congrArg (dataCommand (x :: xs) :: ·) (ih hcs)

theorem streamProgram_append {pieces : List (List Byte)} (hp : ∀ c ∈ pieces, 1 ≤ c.length)
    (later : List ReadResult) :
    streamProgram (pieces.map .bytes ++ later) =
      .init :: dataCommands pieces ++ streamProgram.go later := by
  rw [streamProgram, streamProgram_go_append hp]
  rfl

/-- Settles O40: the loop ends at the first end of input or error, and an error there aborts the open
session. -/
theorem streamSurfacesFirstError : Obligations.StreamSurfacesFirstError := by
  intro pieces later hp
  have hne : ∀ c ∈ pieces, 1 ≤ c.length := fun c hc => (hp c hc).1
  refine ⟨streamProgram_append hne _, fun hl s => ?_⟩
  obtain ⟨t, rs, hrun, hsess, -, hrs, hcount⟩ := runCommands_init_dataCommands s hp hl
  refine ⟨(t.discardData.setSess .failed).respond .ioerr 0, rs, ?_, rfl, hrs, hcount⟩
  rw [streamProgram_append hne]
  exact runCommands_concat hrun (exec_fail_of_absorb hsess)

/-! ### The textual digest (45_host_protocol R128) -/

/-- The sixteen digits. -/
def hexDigits : List Char :=
  ['0', '1', '2', '3', '4', '5', '6', '7', '8', '9', 'a', 'b', 'c', 'd', 'e', 'f']

theorem hexDigit_mem : ∀ v : BitVec 4, hexDigit v ∈ hexDigits := by decide

theorem hexValue_hexDigit : ∀ v : BitVec 4, hexValue (hexDigit v) = some v.toNat := by decide

/-- The digits of one byte. -/
theorem digestText_cons (b : Byte) (bs : List Byte) : digestText (b :: bs) =
    hexDigit (b.extractLsb' 4 4) :: hexDigit (b.extractLsb' 0 4) :: digestText bs := rfl

theorem toNat_highNibble (b : Byte) : (b.extractLsb' 4 4).toNat = b.toNat / 16 := by
  rw [BitVec.extractLsb'_toNat, Nat.shiftRight_eq_div_pow]
  omega

theorem toNat_lowNibble (b : Byte) : (b.extractLsb' 0 4).toNat = b.toNat % 16 := by
  rw [BitVec.extractLsb'_toNat, Nat.shiftRight_zero]

theorem length_digestText (bs : List Byte) : (digestText bs).length = 2 * bs.length := by
  induction bs with
  | nil => rfl
  | cons b bs ih =>
    rw [digestText_cons, List.length_cons, List.length_cons, ih, List.length_cons]
    omega

theorem mem_hexDigits_of_mem_digestText {bs : List Byte} : ∀ c ∈ digestText bs, c ∈ hexDigits := by
  intro c hc
  obtain ⟨b, -, hb⟩ := List.mem_flatMap.mp hc
  rcases List.mem_pair.mp hb with rfl | rfl
  · exact hexDigit_mem _
  · exact hexDigit_mem _

/-- The two characters of byte `j`. -/
theorem hexValue_getD_digestText {bs : List Byte} {j : Nat} (hj : j < bs.length) :
    hexValue ((digestText bs).getD (2 * j) '0') = some ((bs.getD j 0).toNat / 16) ∧
      hexValue ((digestText bs).getD (2 * j + 1) '0') = some ((bs.getD j 0).toNat % 16) := by
  induction bs generalizing j with
  | nil => cases hj
  | cons b bs ih =>
    rw [digestText_cons]
    cases j with
    | zero =>
      exact ⟨by rw [← toNat_highNibble]; exact hexValue_hexDigit _,
        by rw [← toNat_lowNibble]; exact hexValue_hexDigit _⟩
    | succ j => exact ih (Nat.lt_of_succ_lt_succ hj)

/-- Settles O41, by induction over the bytes; a digest has 32 of them. -/
theorem digestTextIsHex : Obligations.DigestTextIsHex := by
  refine ⟨fun bs => ⟨length_digestText bs, mem_hexDigits_of_mem_digestText,
    fun j hj => hexValue_getD_digestText hj⟩, fun b => ?_⟩
  rw [length_digestText, sha256, (digestIsBigEndian _).1]

/-! ### The DATA line of the assembler (30_encoding R65) -/

/-- The assembler reads back the text of a byte list. -/
theorem hexBytes_digestText (bs : List Byte) : hexBytes (digestText bs) = some bs := by
  induction bs with
  | nil => rfl
  | cons b bs ih =>
    have hbyte : BitVec.ofNat 8 (16 * (b.toNat / 16) + b.toNat % 16) = b := by
      rw [Nat.div_add_mod, BitVec.ofNat_toNat, BitVec.setWidth_eq]
    rw [digestText_cons, hexBytes, hexValue_hexDigit, hexValue_hexDigit, ih]
    simp only [toNat_highNibble, toNat_lowNibble, hbyte]

/-- A line that begins with `DATA ` goes to the operand of DATA. -/
theorem assembleLine_data (cs : List Char) :
    assembleLine (['D', 'A', 'T', 'A', ' '] ++ cs) = assembleData cs := by
  simp [assembleLine, withOperand, afterPrefix]

/-- An operand that begins with `hex:` is read as hexadecimal digits. -/
theorem byteOperand_hex (cs : List Char) :
    byteOperand (['h', 'e', 'x', ':'] ++ cs) = hexBytes cs := by
  simp [byteOperand, afterPrefix]

/-- The operand of DATA is 1 to 64 bytes. -/
theorem assembleData_of_byteOperand {cs : List Char} {bs : List Byte}
    (h : byteOperand cs = some bs) :
    assembleData cs =
      if 1 ≤ bs.length ∧ bs.length ≤ 64 then encoded [dataCommand bs] else .refused := by
  rw [assembleData, h]

/-- The word of the DATA of a byte list. -/
theorem encodeWord_dataCommand {bs : List Byte} (h : bs.length ≤ 64) :
    encodeWord (dataCommand bs) = 0x00000002 ||| (BitVec.ofNat 32 bs.length <<< 8) := by
  have hlen : (BitVec.ofNat 7 bs.length).setWidth 32 = BitVec.ofNat 32 bs.length := by
    apply BitVec.eq_of_toNat_eq
    rw [BitVec.toNat_setWidth, BitVec.toNat_ofNat, BitVec.toNat_ofNat]
    omega
  rw [dataCommand, encodeWord, hlen]

/-- Settles O42: the operand reads back as the bytes, and their number is the LEN. -/
theorem hexDataLineAssembles : Obligations.HexDataLineAssembles := by
  intro bs
  have hread : byteOperand (['h', 'e', 'x', ':'] ++ digestText bs) = some bs :=
    (byteOperand_hex _).trans (hexBytes_digestText bs)
  refine ((assembleLine_data _).trans (assembleData_of_byteOperand hread)).trans ?_
  refine ite_congr rfl (fun ⟨_, h64⟩ => ?_) fun _ => rfl
  rw [encoded, List.map_singleton, encodeWord_dataCommand h64]
  rfl

end Sys2Proof.Machine
